-- ==== Sys2Proof/Word.lean ====
section
/-! DEFINITION. The words of the block and the plain records that cross its port: bytes, 16-bit items, the
two revisions, colours, the two entry types, and a command as the host presents it. Types only. -/

namespace Sys2Proof

/-- One byte of a payload (20_memory.md R50). -/
abbrev Byte := BitVec 8

/-- One 16-bit item: a colour word, an entry word, a raw 16-bit operand (00_scope.md R6). -/
abbrev Half := BitVec 16

/-- The two formats of a tilemap entry, never interchanged (43_tilemap_entry.md R181); at the port 0 is A and
1 is B (10_state.md R28). -/
inductive Revision where
  | a
  | b
  deriving DecidableEq, Repr, Inhabited

/-- A colour: three independent 5-bit channels and nothing else (10_state.md R23). -/
structure Color where
  r : BitVec 5
  g : BitVec 5
  b : BitVec 5
  deriving DecidableEq, Repr

/-- A revision-A entry, 16 bits in all (10_state.md R27). -/
structure EntryA where
  tile : BitVec 10
  pal : BitVec 3
  h : Bool
  v : Bool
  prio : Bool
  deriving DecidableEq, Repr

/-- A revision-B entry, 16 bits in all; it has no priority field (10_state.md R27, 90_conflicts.md C7). -/
structure EntryB where
  tile : BitVec 10
  pal : BitVec 4
  h : Bool
  v : Bool
  deriving DecidableEq, Repr

/-- A command as the host presents it: the 64-bit word, the explicit payload length, the payload
(30_encoding.md R80). The three are values, not bytes on a wire (92_eei_decisions.md D25). -/
structure Command where
  cmd : BitVec 64
  plen : BitVec 32
  pin : List Byte
  deriving DecidableEq, Repr

end Sys2Proof
end

