-- ==== Sys2Proof/Config.lean ====
section
/-! DEFINITION. What an implementation fixes (the one open parameter of the spec) and the free values: the
contents of the tilemap registers after the tilemap is destroyed, which the spec calls unspecified. -/

namespace Sys2Proof

/-- The default of the open parameter `HAS_TMAP` (92_eei_decisions.md D26). The machine's own value of the
parameter is the field `hasTmap` of State (log 9), so a machine without the unit is a state of the model too. -/
def Config.hasTmapDefault : Bool := true

/-- FREE VALUE (log 4): `TM_REV` after the n-th destruction of a tilemap (44_tilemap.md R212). -/
opaque Config.freedRev : Nat → Revision

/-- FREE VALUE (log 4): `TM_W` after the n-th destruction of a tilemap (44_tilemap.md R212). -/
opaque Config.freedW : Nat → BitVec 9

/-- FREE VALUE (log 4): `TM_H` after the n-th destruction of a tilemap (44_tilemap.md R212). -/
opaque Config.freedH : Nat → BitVec 9

/-- FREE VALUE (log 4): `CELL` after the n-th destruction of a tilemap (44_tilemap.md R212). -/
opaque Config.freedCells : Nat → List Half

end Sys2Proof
end

