-- ==== Sys2Proof/Syntax.lean ====
section
/-! DEFINITION. The 34 commands, one constructor per row of spec/opcode_table.json, with the operands the
command's rule reads (30_encoding.md R90, R92); what a command does not read is not an operand (R83). -/

namespace Sys2Proof

/-- One command of the block with its operands. Raw operands have the port widths of 00_scope.md R6; record
operands are values in range by their type (30_encoding.md R82); `pin` is the payload of the three commands that
take one. -/
inductive Instr where
  /-- `COL.NEW r8, g8, b8` (R121). -/
  | colNew (r8 g8 b8 : Byte)
  /-- `COL.PACK (r,g,b)` (R122). -/
  | colPack (c : Color)
  /-- `COL.UNPACK w` (R123). -/
  | colUnpack (w : Half)
  /-- `COL.TO8 (r,g,b)` (R124). -/
  | colTo8 (c : Color)
  /-- `COL.FROM8 r8, g8, b8` (R125). -/
  | colFrom8 (r8 g8 b8 : Byte)
  /-- `PAL.NEW` (R144). -/
  | palNew
  /-- `PAL.GET sp, ci` (R145). -/
  | palGet (sp ci : Byte)
  /-- `PAL.SET sp, ci, (r,g,b)` (R146). -/
  | palSet (sp ci : Byte) (c : Color)
  /-- `PAL.EXPORT` (R147). -/
  | palExport
  /-- `PAL.IMPORT [bytes]` (R148). -/
  | palImport (pin : List Byte)
  /-- `TILE.NEW` (R164). -/
  | tileNew
  /-- `TILE.GETPX x, y` (R165). -/
  | tileGetpx (x y : Byte)
  /-- `TILE.SETPX x, y, c` (R166). -/
  | tileSetpx (x y c : Byte)
  /-- `TILE.ENC` (R167). -/
  | tileEnc
  /-- `TILE.DEC [32 bytes]` (R168). -/
  | tileDec (pin : List Byte)
  /-- `TME.NEW.A tile, pal, h, v, p` (R184). -/
  | tmeNewA (tile : Half) (pal : Byte) (h v p : Bool)
  /-- `TME.NEW.B tile, pal, h, v` (R185). -/
  | tmeNewB (tile : Half) (pal : Byte) (h v : Bool)
  /-- `TME.PACK.A {tile,pal,h,v,p}` (R186). -/
  | tmePackA (e : EntryA)
  /-- `TME.PACK.B {tile,pal,h,v}` (R187). -/
  | tmePackB (e : EntryB)
  /-- `TME.UNPACK.A w` (R188). -/
  | tmeUnpackA (w : Half)
  /-- `TME.UNPACK.B w` (R189). -/
  | tmeUnpackB (w : Half)
  /-- `TME.SETTILE.A {…}, nv` (R190). -/
  | tmeSettileA (e : EntryA) (nv : Half)
  /-- `TME.SETTILE.B {…}, nv` (R191). -/
  | tmeSettileB (e : EntryB) (nv : Half)
  /-- `TME.SETPAL.A {…}, nv` (R192). -/
  | tmeSetpalA (e : EntryA) (nv : Half)
  /-- `TME.SETPAL.B {…}, nv` (R193). -/
  | tmeSetpalB (e : EntryB) (nv : Half)
  /-- `TM.NEW width, height, rev` (R211). -/
  | tmNew (width height : Half) (rev : Revision)
  /-- `TM.FREE` (R212). -/
  | tmFree
  /-- `TM.GET x, y` (R213). -/
  | tmGet (x y : Half)
  /-- `TM.SET x, y, w` (R214). -/
  | tmSet (x y w : Half)
  /-- `TM.RESIZE width, height` (R215). -/
  | tmResize (width height : Half)
  /-- `TM.CLEAR` (R216). -/
  | tmClear
  /-- `TM.FILL w` (R217). -/
  | tmFill (w : Half)
  /-- `TM.EXPORT` (R218). -/
  | tmExport
  /-- `TM.IMPORT width, height, rev, [bytes]` (R220). -/
  | tmImport (width height : Half) (rev : Revision) (pin : List Byte)
  deriving DecidableEq, Repr

end Sys2Proof
end

