-- ==== Sys2Proof/WellFormed.lean ====
section
/-! DEFINITION. Which commands can be presented at the port: a payload is as long as its PLEN says, and a typed
command has the payload its fixed PLEN requires and one whose length fits PLEN. -/

namespace Sys2Proof

/-- A command is a triple whose payload has exactly `PLEN` bytes (30_encoding.md R80). -/
def Command.wellFormed (c : Command) : Bool := c.plen.toNat == c.pin.length

/-- A typed command that can be presented: `TILE.DEC` carries 32 bytes (30_encoding.md R87), the payload of
an import has a length that fits the 32-bit `PLEN` (R80). Every other operand is in range by its type (R82). -/
def Instr.wellFormed : Instr → Bool
  | .tileDec pin => pin.length == 32
  | .palImport pin => decide (pin.length < 2 ^ 32)
  | .tmImport _ _ _ pin => decide (pin.length < 2 ^ 32)
  | .colNew _ _ _ | .colPack _ | .colUnpack _ | .colTo8 _ | .colFrom8 _ _ _ => true
  | .palNew | .palGet _ _ | .palSet _ _ _ | .palExport => true
  | .tileNew | .tileGetpx _ _ | .tileSetpx _ _ _ | .tileEnc => true
  | .tmeNewA _ _ _ _ _ | .tmeNewB _ _ _ _ | .tmePackA _ | .tmePackB _ => true
  | .tmeUnpackA _ | .tmeUnpackB _ | .tmeSettileA _ _ | .tmeSettileB _ _ => true
  | .tmeSetpalA _ _ | .tmeSetpalB _ _ => true
  | .tmNew _ _ _ | .tmFree | .tmGet _ _ | .tmSet _ _ _ | .tmResize _ _ => true
  | .tmClear | .tmFill _ | .tmExport => true

end Sys2Proof
end

