-- ==== Sys2Proof/Decode.lean ====
section
/-! DEFINITION. The opcode map, the decoder from a command word with its payload to a typed command, total and
rejecting by name, and after it the encoder, both written from 30_encoding.md R80 to R91. -/

namespace Sys2Proof

/-- One name per row of the opcode map (30_encoding.md R90). -/
inductive Opcode where
  | colNew | colPack | colUnpack | colTo8 | colFrom8
  | palNew | palGet | palSet | palExport | palImport
  | tileNew | tileGetpx | tileSetpx | tileEnc | tileDec
  | tmeNewA | tmeNewB | tmePackA | tmePackB | tmeUnpackA | tmeUnpackB
  | tmeSettileA | tmeSettileB | tmeSetpalA | tmeSetpalB
  | tmNew | tmFree | tmGet | tmSet | tmResize | tmClear | tmFill | tmExport | tmImport
  deriving DecidableEq, Repr

/-- Why a command is malformed (30_encoding.md R88); both complete `BADCMD` (60_exceptions.md R243). -/
inductive DecodeError where
  /-- `OPC` is not in the table, or belongs to the absent TMAP unit (R88, R247 check 1). -/
  | unknownOpcode
  /-- `PLEN` is not the fixed one the command requires (R87, R247 check 2). -/
  | badPayloadLength
  deriving DecidableEq, Repr

/-- The opcode numbers of 30_encoding.md R90. -/
def Opcode.code : Opcode → BitVec 8
  | .colNew => 0x10 | .colPack => 0x11 | .colUnpack => 0x12 | .colTo8 => 0x13 | .colFrom8 => 0x14
  | .palNew => 0x20 | .palGet => 0x21 | .palSet => 0x22 | .palExport => 0x23 | .palImport => 0x24
  | .tileNew => 0x30 | .tileGetpx => 0x31 | .tileSetpx => 0x32 | .tileEnc => 0x33 | .tileDec => 0x34
  | .tmeNewA => 0x40 | .tmeNewB => 0x41 | .tmePackA => 0x42 | .tmePackB => 0x43
  | .tmeUnpackA => 0x44 | .tmeUnpackB => 0x45 | .tmeSettileA => 0x46 | .tmeSettileB => 0x47
  | .tmeSetpalA => 0x48 | .tmeSetpalB => 0x49
  | .tmNew => 0x50 | .tmFree => 0x51 | .tmGet => 0x52 | .tmSet => 0x53 | .tmResize => 0x54
  | .tmClear => 0x55 | .tmFill => 0x56 | .tmExport => 0x57 | .tmImport => 0x58

/-- Every row of the opcode map, in the table's order. -/
def Opcode.all : List Opcode :=
  [.colNew, .colPack, .colUnpack, .colTo8, .colFrom8] ++
  [.palNew, .palGet, .palSet, .palExport, .palImport] ++
  [.tileNew, .tileGetpx, .tileSetpx, .tileEnc, .tileDec] ++
  [.tmeNewA, .tmeNewB, .tmePackA, .tmePackB, .tmeUnpackA, .tmeUnpackB,
    .tmeSettileA, .tmeSettileB, .tmeSetpalA, .tmeSetpalB] ++
  [.tmNew, .tmFree, .tmGet, .tmSet, .tmResize, .tmClear, .tmFill, .tmExport, .tmImport]

/-- The row an opcode byte selects; no other bit of the word takes part (30_encoding.md R81). -/
def opcodeOf (code : BitVec 8) : Option Opcode := Opcode.all.find? fun o => o.code == code

/-- The rows of the optional TMAP unit, opcodes 0x50 to 0x58 (30_encoding.md R88). -/
def Opcode.isTmap : Opcode → Bool
  | .tmNew | .tmFree | .tmGet | .tmSet | .tmResize | .tmClear | .tmFill | .tmExport | .tmImport => true
  | .colNew | .colPack | .colUnpack | .colTo8 | .colFrom8 => false
  | .palNew | .palGet | .palSet | .palExport | .palImport => false
  | .tileNew | .tileGetpx | .tileSetpx | .tileEnc | .tileDec => false
  | .tmeNewA | .tmeNewB | .tmePackA | .tmePackB | .tmeUnpackA | .tmeUnpackB => false
  | .tmeSettileA | .tmeSettileB | .tmeSetpalA | .tmeSetpalB => false

/-- The payload length a command requires, `none` where every length is well-formed (30_encoding.md R87). -/
def Opcode.payloadIn : Opcode → Option Nat
  | .tileDec => some 32
  | .palImport | .tmImport => none
  | .colNew | .colPack | .colUnpack | .colTo8 | .colFrom8 => some 0
  | .palNew | .palGet | .palSet | .palExport => some 0
  | .tileNew | .tileGetpx | .tileSetpx | .tileEnc => some 0
  | .tmeNewA | .tmeNewB | .tmePackA | .tmePackB | .tmeUnpackA | .tmeUnpackB => some 0
  | .tmeSettileA | .tmeSettileB | .tmeSetpalA | .tmeSetpalB => some 0
  | .tmNew | .tmFree | .tmGet | .tmSet | .tmResize | .tmClear | .tmFill | .tmExport => some 0

/-- Whether `PLEN` is one the command may have (30_encoding.md R87). -/
def Opcode.acceptsPlen (o : Opcode) (plen : BitVec 32) : Bool :=
  match o.payloadIn with
  | some n => plen.toNat == n
  | none => true

/-- The contiguous, zero-extended field of `width` bits of the command word from bit `lo` (30_encoding.md R86). -/
def field (cmd : BitVec 64) (lo width : Nat) : BitVec width := cmd.extractLsb' lo width

/-- One bit of the command word. -/
def flagField (cmd : BitVec 64) (i : Nat) : Bool := cmd.getLsbD i

/-- `CMD[63:56]` (30_encoding.md R81). -/
def opcodeField (cmd : BitVec 64) : BitVec 8 := field cmd 56 8

/-- The Color record of formats `CR` and `P` (30_encoding.md R82). -/
def colorField (cmd : BitVec 64) : Color :=
  { r := field cmd 16 5, g := field cmd 8 5, b := field cmd 0 5 }

/-- The `EntryA` record of format `EA` (30_encoding.md R82). -/
def entryAField (cmd : BitVec 64) : EntryA :=
  { tile := field cmd 0 10, pal := field cmd 16 3, h := flagField cmd 24, v := flagField cmd 25,
    prio := flagField cmd 26 }

/-- The `EntryB` record of format `EB` (30_encoding.md R82). -/
def entryBField (cmd : BitVec 64) : EntryB :=
  { tile := field cmd 0 10, pal := field cmd 16 4, h := flagField cmd 24, v := flagField cmd 25 }

/-- The revision selector of format `M`: 0 is A, 1 is B (30_encoding.md R82). -/
def revField (cmd : BitVec 64) : Revision := if flagField cmd 48 then .b else .a

/-- The operands of each row, read from the command word in the row's format; bits the rule does not read are
ignored (30_encoding.md R82, R83, R90). -/
def assemble (o : Opcode) (cmd : BitVec 64) (pin : List Byte) : Instr :=
  match o with
  | .colNew => .colNew (field cmd 16 8) (field cmd 8 8) (field cmd 0 8)
  | .colPack => .colPack (colorField cmd)
  | .colUnpack => .colUnpack (field cmd 0 16)
  | .colTo8 => .colTo8 (colorField cmd)
  | .colFrom8 => .colFrom8 (field cmd 16 8) (field cmd 8 8) (field cmd 0 8)
  | .palNew => .palNew
  | .palGet => .palGet (field cmd 32 8) (field cmd 24 8)
  | .palSet => .palSet (field cmd 32 8) (field cmd 24 8) (colorField cmd)
  | .palExport => .palExport
  | .palImport => .palImport pin
  | .tileNew => .tileNew
  | .tileGetpx => .tileGetpx (field cmd 8 8) (field cmd 16 8)
  | .tileSetpx => .tileSetpx (field cmd 8 8) (field cmd 16 8) (field cmd 0 8)
  | .tileEnc => .tileEnc
  | .tileDec => .tileDec pin
  | .tmeNewA =>
    .tmeNewA (field cmd 0 16) (field cmd 16 8) (flagField cmd 24) (flagField cmd 25) (flagField cmd 26)
  | .tmeNewB => .tmeNewB (field cmd 0 16) (field cmd 16 8) (flagField cmd 24) (flagField cmd 25)
  | .tmePackA => .tmePackA (entryAField cmd)
  | .tmePackB => .tmePackB (entryBField cmd)
  | .tmeUnpackA => .tmeUnpackA (field cmd 0 16)
  | .tmeUnpackB => .tmeUnpackB (field cmd 0 16)
  | .tmeSettileA => .tmeSettileA (entryAField cmd) (field cmd 32 16)
  | .tmeSettileB => .tmeSettileB (entryBField cmd) (field cmd 32 16)
  | .tmeSetpalA => .tmeSetpalA (entryAField cmd) (field cmd 32 16)
  | .tmeSetpalB => .tmeSetpalB (entryBField cmd) (field cmd 32 16)
  | .tmNew => .tmNew (field cmd 16 16) (field cmd 32 16) (revField cmd)
  | .tmFree => .tmFree
  | .tmGet => .tmGet (field cmd 16 16) (field cmd 32 16)
  | .tmSet => .tmSet (field cmd 16 16) (field cmd 32 16) (field cmd 0 16)
  | .tmResize => .tmResize (field cmd 16 16) (field cmd 32 16)
  | .tmClear => .tmClear
  | .tmFill => .tmFill (field cmd 0 16)
  | .tmExport => .tmExport
  | .tmImport => .tmImport (field cmd 16 16) (field cmd 32 16) (revField cmd) pin

/-- Decoding, with the checks in the order of 60_exceptions.md R247: first the opcode, then the fixed payload
length. `hasTmap` says whether the TMAP unit is present (30_encoding.md R88). -/
def decode (hasTmap : Bool) (c : Command) : Except DecodeError Instr :=
  match opcodeOf (opcodeField c.cmd) with
  | none => .error .unknownOpcode
  | some o =>
    if o.isTmap && !hasTmap then .error .unknownOpcode
    else if o.acceptsPlen c.plen then .ok (assemble o c.cmd c.pin)
    else .error .badPayloadLength

/-- A value placed at bit `lo` of a 64-bit word; every other bit 0. -/
def place {n : Nat} (v : BitVec n) (lo : Nat) : BitVec 64 := v.setWidth 64 <<< lo

/-- One bit placed at bit `i` of a 64-bit word. -/
def placeFlag (f : Bool) (i : Nat) : BitVec 64 := place (BitVec.ofBool f) i

/-- The lanes of a Color record, the same in an operand (`CR`) and a result (`RC`) (30_encoding.md R82, R85). -/
def colorLanes (c : Color) : BitVec 64 := place c.r 16 ||| place c.g 8 ||| place c.b 0

/-- The lanes of three raw 8-bit channels, `C8` and `R8` (30_encoding.md R82, R85). -/
def channelLanes (r8 g8 b8 : Byte) : BitVec 64 := place r8 16 ||| place g8 8 ||| place b8 0

/-- The lanes of an `EntryA` record, `EA` and `REA` (30_encoding.md R82, R85). -/
def entryALanes (e : EntryA) : BitVec 64 :=
  place e.tile 0 ||| place e.pal 16 ||| placeFlag e.h 24 ||| placeFlag e.v 25 ||| placeFlag e.prio 26

/-- The lanes of an `EntryB` record, `EB` and `REB`; bit 26 stays 0 (30_encoding.md R82, R85). -/
def entryBLanes (e : EntryB) : BitVec 64 :=
  place e.tile 0 ||| place e.pal 16 ||| placeFlag e.h 24 ||| placeFlag e.v 25

/-- The bit of the revision selector (30_encoding.md R82). -/
def revBit : Revision → Bool
  | .a => false
  | .b => true

/-- The row of a typed command. -/
def opcodeOfInstr : Instr → Opcode
  | .colNew _ _ _ => .colNew
  | .colPack _ => .colPack
  | .colUnpack _ => .colUnpack
  | .colTo8 _ => .colTo8
  | .colFrom8 _ _ _ => .colFrom8
  | .palNew => .palNew
  | .palGet _ _ => .palGet
  | .palSet _ _ _ => .palSet
  | .palExport => .palExport
  | .palImport _ => .palImport
  | .tileNew => .tileNew
  | .tileGetpx _ _ => .tileGetpx
  | .tileSetpx _ _ _ => .tileSetpx
  | .tileEnc => .tileEnc
  | .tileDec _ => .tileDec
  | .tmeNewA _ _ _ _ _ => .tmeNewA
  | .tmeNewB _ _ _ _ => .tmeNewB
  | .tmePackA _ => .tmePackA
  | .tmePackB _ => .tmePackB
  | .tmeUnpackA _ => .tmeUnpackA
  | .tmeUnpackB _ => .tmeUnpackB
  | .tmeSettileA _ _ => .tmeSettileA
  | .tmeSettileB _ _ => .tmeSettileB
  | .tmeSetpalA _ _ => .tmeSetpalA
  | .tmeSetpalB _ _ => .tmeSetpalB
  | .tmNew _ _ _ => .tmNew
  | .tmFree => .tmFree
  | .tmGet _ _ => .tmGet
  | .tmSet _ _ _ => .tmSet
  | .tmResize _ _ => .tmResize
  | .tmClear => .tmClear
  | .tmFill _ => .tmFill
  | .tmExport => .tmExport
  | .tmImport _ _ _ _ => .tmImport

/-- The 56 operand bits of a typed command, in its row's format, unnamed bits 0 (30_encoding.md R82). -/
def argLanes : Instr → BitVec 64
  | .colNew r8 g8 b8 => channelLanes r8 g8 b8
  | .colPack c => colorLanes c
  | .colUnpack w => place w 0
  | .colTo8 c => colorLanes c
  | .colFrom8 r8 g8 b8 => channelLanes r8 g8 b8
  | .palNew => 0
  | .palGet sp ci => place sp 32 ||| place ci 24
  | .palSet sp ci c => place sp 32 ||| place ci 24 ||| colorLanes c
  | .palExport => 0
  | .palImport _ => 0
  | .tileNew => 0
  | .tileGetpx x y => place y 16 ||| place x 8
  | .tileSetpx x y c => place y 16 ||| place x 8 ||| place c 0
  | .tileEnc => 0
  | .tileDec _ => 0
  | .tmeNewA tile pal h v p =>
    place tile 0 ||| place pal 16 ||| placeFlag h 24 ||| placeFlag v 25 ||| placeFlag p 26
  | .tmeNewB tile pal h v => place tile 0 ||| place pal 16 ||| placeFlag h 24 ||| placeFlag v 25
  | .tmePackA e => entryALanes e
  | .tmePackB e => entryBLanes e
  | .tmeUnpackA w => place w 0
  | .tmeUnpackB w => place w 0
  | .tmeSettileA e nv => entryALanes e ||| place nv 32
  | .tmeSettileB e nv => entryBLanes e ||| place nv 32
  | .tmeSetpalA e nv => entryALanes e ||| place nv 32
  | .tmeSetpalB e nv => entryBLanes e ||| place nv 32
  | .tmNew width height rev => place width 16 ||| place height 32 ||| placeFlag (revBit rev) 48
  | .tmFree => 0
  | .tmGet x y => place x 16 ||| place y 32
  | .tmSet x y w => place w 0 ||| place x 16 ||| place y 32
  | .tmResize width height => place width 16 ||| place height 32
  | .tmClear => 0
  | .tmFill w => place w 0
  | .tmExport => 0
  | .tmImport width height rev _ => place width 16 ||| place height 32 ||| placeFlag (revBit rev) 48

/-- The payload a typed command carries. -/
def payloadOf : Instr → List Byte
  | .palImport pin => pin
  | .tileDec pin => pin
  | .tmImport _ _ _ pin => pin
  | .colNew _ _ _ | .colPack _ | .colUnpack _ | .colTo8 _ | .colFrom8 _ _ _ => []
  | .palNew | .palGet _ _ | .palSet _ _ _ | .palExport => []
  | .tileNew | .tileGetpx _ _ | .tileSetpx _ _ _ | .tileEnc => []
  | .tmeNewA _ _ _ _ _ | .tmeNewB _ _ _ _ | .tmePackA _ | .tmePackB _ => []
  | .tmeUnpackA _ | .tmeUnpackB _ | .tmeSettileA _ _ | .tmeSettileB _ _ => []
  | .tmeSetpalA _ _ | .tmeSetpalB _ _ => []
  | .tmNew _ _ _ | .tmFree | .tmGet _ _ | .tmSet _ _ _ | .tmResize _ _ => []
  | .tmClear | .tmFill _ | .tmExport => []

/-- The command of a typed command: opcode in bits 63:56, operands below, the payload and its length
(30_encoding.md R80, R81). -/
def encode (i : Instr) : Command :=
  { cmd := place (opcodeOfInstr i).code 56 ||| argLanes i
    plen := BitVec.ofNat 32 (payloadOf i).length
    pin := payloadOf i }

/-- How many payload bytes go with a command word that is given without its payload (log 13): the fixed length of
`TILE.DEC`, for the two imports the length they expect, otherwise none. -/
def tablePayloadLength (cmd : BitVec 64) : Nat :=
  match opcodeOf (opcodeField cmd) with
  | some .tileDec => 32
  | some .palImport => 512
  | some .tmImport =>
    2 * (max 1 (min 256 (field cmd 16 16).toNat) * max 1 (min 256 (field cmd 32 16).toNat))
  | some _ => 0
  | none => 0

/-- The command whose word has the low `nbits` bits of `w`, every bit above them 0, and a payload of zero bytes of
the length the command takes (log 13). -/
def tableCommand (nbits w : Nat) : Command :=
  let cmd := BitVec.ofNat 64 (w % 2 ^ nbits)
  let pin := List.replicate (tablePayloadLength cmd) (0 : Byte)
  { cmd := cmd, plen := BitVec.ofNat 32 pin.length, pin := pin }

/-- What the decoder reads from a word numbered as spec/opcode_table.json numbers it; `none` where it refuses. -/
def decodeTableWord (nbits w : Nat) : Option Instr :=
  match decode Config.hasTmapDefault (tableCommand nbits w) with
  | .ok i => some i
  | .error _ => none

end Sys2Proof
end

