-- ==== Sys2Proof/Machine/State.lean ====
section
/-! DEFINITION. The state of the block as 10_state.md gives it, the port through which the host drives it, the
reasons a step can stop, and the state after reset. -/

namespace Sys2Proof.Machine

/-- The completion codes of 60_exceptions.md R240; codes 5 to 7 are never produced. -/
inductive Stat where
  /-- Code 0: the command did what its rule says. -/
  | ok
  /-- Code 1: an import was given a payload of another length than it expects (R242). -/
  | lenMismatch
  /-- Code 2: `TM.GET` outside the grid; a result, not a failure (R241). -/
  | absent
  /-- Code 3: a malformed command (R243). -/
  | badCmd
  /-- Code 4: a command that needs a tilemap when there is none (R244). -/
  | noMap
  deriving DecidableEq, Repr

/-- The response of one command: `(STAT, RES, RLEN, POUT)` (30_encoding.md R84). -/
structure Response where
  stat : Stat
  res : BitVec 64
  rlen : BitVec 32
  pout : List Byte
  deriving DecidableEq, Repr

/-- What the host can do to the block: present a command (20_memory.md R61) or, between two commands, reset it
(70_reset_and_hazards.md R270). -/
inductive PortEvent where
  | command (c : Command)
  | reset
  deriving DecidableEq, Repr

/-- Reasons the block could stop with a fault: there are none. Every failure of the spec is a completion code in a
response and the block goes on (00_scope.md R10, 60_exceptions.md R248, 70_reset_and_hazards.md R281), so the type
has no constructor: nothing raises a fault, which is safe (log 5). -/
inductive Fault where
  deriving DecidableEq, Repr

/-- Reasons a step has no meaning. -/
inductive Refusal where
  /-- An instruction whose meaning has not been written, raised by its arm in `exec` alone; no arm raises it now.
  Safe: it says nothing about the instruction. -/
  | notModelled (mnemonic : String)
  /-- The host's stream holds a payload whose length is not its `PLEN`: no command in the sense of 30_encoding.md R80,
  so the spec gives it no meaning (log 5). Raised by the port, before decoding. Safe: no claim about the block
  follows from it. -/
  | payloadNotPlen
  deriving DecidableEq, Repr

/-- The state. The first eight fields are what the spec gives the machine (10_state.md R24, R26, R28 and the
parameter of 92_eei_decisions.md D26); the last three are the model's own: the host's stream, the last response,
the counter of free values. -/
structure State where
  /-- `HAS_TMAP`: whether the TMAP unit is present; never written by a step (D26, log 9). -/
  hasTmap : Bool
  /-- `PAL[0..255]` (R24). -/
  pal : Vector Color 256
  /-- `PIX[y][x]`: eight rows of eight columns (R26). -/
  pix : Vector (Vector (BitVec 4) 8) 8
  /-- `TM_VALID` (R28). -/
  tmValid : Bool
  /-- `TM_REV` (R28). -/
  tmRev : Revision
  /-- `TM_W` (R28). -/
  tmW : BitVec 9
  /-- `TM_H` (R28). -/
  tmH : BitVec 9
  /-- `CELL[0 .. TM_W*TM_H-1]`, each as its packed-16 word under `TM_REV` (R28, R30, log 7). -/
  cells : List Half
  /-- What the host will still present, oldest first (log 1). -/
  stream : List PortEvent
  /-- The response of the last command, none before the first (log 2). -/
  response : Option Response
  /-- How many times free values have been drawn (log 4). -/
  freeCount : Nat
  deriving DecidableEq, Repr

/-- The state after reset (10_state.md R34, 70_reset_and_hazards.md R271): black palette, zero tile, no tilemap. The
spec leaves the other tilemap registers unspecified there; the values here are the model's (log 3). -/
def State.reset : State where
  hasTmap := Config.hasTmapDefault
  pal := Vector.replicate 256 { r := 0, g := 0, b := 0 }
  pix := Vector.replicate 8 (Vector.replicate 8 0)
  tmValid := false
  tmRev := .a
  tmW := 0
  tmH := 0
  cells := []
  stream := []
  response := none
  freeCount := 0

end Sys2Proof.Machine
end

