-- ==== Sys2Proof/Machine/Flags.lean ====
section
/-! DEFINITION. The block has no flag and no condition code (10_state.md R22). What each command has instead is the
completion code of its response; this file gives the codes their numbers. -/

namespace Sys2Proof.Machine

/-- The 3-bit code of a completion (60_exceptions.md R240). -/
def Stat.code : Stat → BitVec 3
  | .ok => 0
  | .lenMismatch => 1
  | .absent => 2
  | .badCmd => 3
  | .noMap => 4

/-- The completion a 3-bit code stands for; codes 5 to 7 are never produced (60_exceptions.md R240). -/
def statOfCode (c : BitVec 3) : Option Stat :=
  if c = 0 then some .ok
  else if c = 1 then some .lenMismatch
  else if c = 2 then some .absent
  else if c = 3 then some .badCmd
  else if c = 4 then some .noMap
  else none

end Sys2Proof.Machine
end

