-- ==== Sys2Proof/Machine/Ops.lean ====
section
/-! DEFINITION. The named operations over the stores, the payloads and the port: completing a command, failing, the
tilemap gate, little-endian payload access, palette, tile and cell access, making and freeing the tilemap, reset. -/

namespace Sys2Proof.Machine

/-- `complete(code, res)`: the command ends with its response and the next state (30_encoding.md R84). `RLEN` is the
length of what was written to `POUT`. -/
def complete (s : State) (code : Stat) (res : BitVec 64) (pout : List Byte) : Host.Outcome State Fault Refusal :=
  .next { s with
    response := some { stat := code, res := res, rlen := BitVec.ofNat 32 pout.length, pout := pout } }

/-- Completing `OK` with a result word and no payload. -/
def succeed (s : State) (res : BitVec 64) : Host.Outcome State Fault Refusal := complete s .ok res []

/-- Completing `OK` with result layout `R0` and a payload. -/
def succeedWith (s : State) (pout : List Byte) : Host.Outcome State Fault Refusal := complete s .ok 0 pout

/-- What a command that does not complete `OK` does: the code, `RES = 0`, `RLEN = 0`, and the block state as it was
(30_encoding.md R84, 60_exceptions.md R248). This is the block's only counterpart of taking an exception; there is
nothing to return from (R249). -/
def raise (s : State) (code : Stat) : Host.Outcome State Fault Refusal := complete s code 0 []

/-- The commands that need a tilemap complete `NOMAP` without one, before their own semantics (44_tilemap.md R219,
60_exceptions.md R247). -/
def needMap (s : State) (act : Host.Outcome State Fault Refusal) : Host.Outcome State Fault Refusal :=
  if s.tmValid then act else raise s .noMap

/-- `MemRead(PIN, a, 1)` (20_memory.md R52). The length is checked before any byte is read (60_exceptions.md R242), so
the value past the end is never used. -/
def memRead8 (pin : List Byte) (a : Nat) : Byte := pin.getD a 0

/-- `MemRead(PIN, a, 2)`: the byte at the lower offset is the low byte (20_memory.md R52). -/
def memRead16 (pin : List Byte) (a : Nat) : Half :=
  (memRead8 pin a).setWidth 16 ||| ((memRead8 pin (a + 1)).setWidth 16 <<< 8)

/-- The two bytes `MemWrite(POUT, a, 2, v)` puts at offsets `a` and `a+1`, low byte first (20_memory.md R52). -/
def memWrite16 (v : Half) : List Byte := [v.extractLsb' 0 8, v.extractLsb' 8 8]

/-- `PAL[i]` (10_state.md R24). -/
def readPal (s : State) (i : Fin 256) : Color := s.pal[i]

/-- `PAL[i] <- c` (10_state.md R24). -/
def writePal (s : State) (i : Fin 256) (c : Color) : State := { s with pal := s.pal.set i c }

/-- `PIX[y][x]` (10_state.md R26). -/
def readPixel (s : State) (x y : Fin 8) : BitVec 4 := s.pix[y][x]

/-- `PIX[y][x] <- c` (10_state.md R26). -/
def writePixel (s : State) (x y : Fin 8) (c : BitVec 4) : State :=
  { s with pix := s.pix.set y (s.pix[y].set x c) }

/-- The word of `CELL[i]`. Under the invariant of 10_state.md R29 a cell inside the grid is always in the list; what is
read elsewhere is a convention for states no run reaches (log 7). -/
def cellWord (cells : List Half) (i : Nat) : Half := cells.getD i 0

/-- Whether `(x, y)` is inside the current grid (44_tilemap.md R213). -/
def inGrid (s : State) (x y : Half) : Bool :=
  decide (x.toNat < s.tmW.toNat) && decide (y.toNat < s.tmH.toNat)

/-- The index of cell `(x, y)`: row-major with stride `TM_W` (10_state.md R28). -/
def cellIndex (s : State) (x y : Half) : Nat := y.toNat * s.tmW.toNat + x.toNat

/-- `CELL[i] <- w`, as a word. -/
def writeCell (s : State) (i : Nat) (w : Half) : State := { s with cells := s.cells.set i w }

/-- Create or replace the tilemap (44_tilemap.md R211, R220). -/
def installMap (s : State) (rev : Revision) (w h : BitVec 9) (cells : List Half) : State :=
  { s with tmValid := true, tmRev := rev, tmW := w, tmH := h, cells := cells }

/-- Destroy the tilemap: `TM_VALID <- 0`, and the other tilemap registers become unspecified, which the free values of
Config stand for; with no tilemap nothing changes (44_tilemap.md R212, log 4). -/
def freeMap (s : State) : State :=
  if s.tmValid then
    { s with
      tmValid := false
      tmRev := Config.freedRev s.freeCount
      tmW := Config.freedW s.freeCount
      tmH := Config.freedH s.freeCount
      cells := Config.freedCells s.freeCount
      freeCount := s.freeCount + 1 }
  else s

/-- The reset event restores all block state (70_reset_and_hazards.md R270, R271). The parameter `HAS_TMAP`, the host's
stream and the counter of free values are no block state and stay. -/
def resetBlock (s : State) : State :=
  { State.reset with hasTmap := s.hasTmap, stream := s.stream, freeCount := s.freeCount }

end Sys2Proof.Machine
end

