-- ==== Sys2Proof/Machine/Operands.lean ====
section
/-! DEFINITION. How operands are brought into range (clamp, wrap, range test, shift), the colour word, the two entry
words, the planar tile codec, the cells of a resized or imported grid, and the layouts of RES. -/

namespace Sys2Proof.Machine

/-- `clamp(v, lo, hi)` (00_scope.md R8). -/
def clampTo (lo hi v : Nat) : Nat := if v < lo then lo else if hi < v then hi else v

/-- `wrap16(v) = v mod 16` (00_scope.md R8). -/
def wrap16 (v : Byte) : Nat := v.toNat % 16

/-- A raw colour channel clamped to 0..31 (40_color.md R121). -/
def clampChannel (v : Byte) : BitVec 5 := BitVec.ofNat 5 (clampTo 0 31 v.toNat)

/-- `clampT`: a raw tile index clamped to 0..1023 (43_tilemap_entry.md R183). -/
def clampTile (v : Nat) : BitVec 10 := BitVec.ofNat 10 (clampTo 0 1023 v)

/-- `clampPA`: a raw palette index clamped to 0..7 (43_tilemap_entry.md R183). -/
def clampPalA (v : Nat) : BitVec 3 := BitVec.ofNat 3 (clampTo 0 7 v)

/-- `clampPB`: a raw palette index clamped to 0..15 (43_tilemap_entry.md R183). -/
def clampPalB (v : Nat) : BitVec 4 := BitVec.ofNat 4 (clampTo 0 15 v)

/-- `clampD`: a raw dimension clamped to 1..256 (44_tilemap.md). -/
def clampDim (v : Half) : BitVec 9 := BitVec.ofNat 9 (clampTo 1 256 v.toNat)

theorem palIndex_lt (sp ci : Byte) : 16 * wrap16 sp + wrap16 ci < 256 := by
  unfold wrap16; omega

/-- `idx(sp, ci) = 16 * wrap16(sp) + wrap16(ci)` (41_palette.md R143). -/
def palIndex (sp ci : Byte) : Fin 256 := ⟨16 * wrap16 sp + wrap16 ci, palIndex_lt sp ci⟩

/-- A tile coordinate, when it is in range (42_tile.md R161). -/
def tileCoord (v : Byte) : Option (Fin 8) := if h : v.toNat < 8 then some ⟨v.toNat, h⟩ else none

/-- A pixel value, when it is in range: 0 to 15, 15 included (42_tile.md R161, 90_conflicts.md C1). -/
def pixelValue (c : Byte) : Option (BitVec 4) := if c.toNat ≤ 15 then some (c.setWidth 4) else none

/-- The colour word: red in bits 14-10, green in 9-5, blue in 4-0, bit 15 zero (40_color.md R122, 20_memory.md R57). -/
def packColor (c : Color) : Half :=
  (c.r.setWidth 16 <<< 10) ||| (c.g.setWidth 16 <<< 5) ||| c.b.setWidth 16

/-- The colour of a word; bit 15 is ignored (40_color.md R123). -/
def unpackColor (w : Half) : Color :=
  { r := ((w >>> 10) &&& 0x1F).setWidth 5, g := ((w >>> 5) &&& 0x1F).setWidth 5, b := (w &&& 0x1F).setWidth 5 }

/-- `exp8(v) = (v << 3) | (v >> 2)` (40_color.md R124). -/
def expand8 (v : BitVec 5) : Byte := (v.setWidth 8 <<< 3) ||| (v.setWidth 8 >>> 2)

/-- `v >> 3`, zero-filling (40_color.md R125, 90_conflicts.md C6). -/
def reduce8 (v : Byte) : BitVec 5 := (v >>> 3).setWidth 5

/-- A flag as the low bit of a 16-bit word. -/
def flagBit (f : Bool) : Half := if f then 1 else 0

/-- The revision-A entry word (43_tilemap_entry.md R182, R186). -/
def packA (e : EntryA) : Half :=
  e.tile.setWidth 16 ||| (e.pal.setWidth 16 <<< 10) ||| (flagBit e.h <<< 13) ||| (flagBit e.v <<< 14)
    ||| (flagBit e.prio <<< 15)

/-- The revision-B entry word (43_tilemap_entry.md R182, R187). -/
def packB (e : EntryB) : Half :=
  e.tile.setWidth 16 ||| (flagBit e.h <<< 10) ||| (flagBit e.v <<< 11) ||| (e.pal.setWidth 16 <<< 12)

/-- The revision-A entry of a word (43_tilemap_entry.md R188). -/
def unpackA (w : Half) : EntryA :=
  { tile := (w &&& 0x3FF).setWidth 10, pal := ((w >>> 10) &&& 7).setWidth 3, h := (w >>> 13).getLsbD 0,
    v := (w >>> 14).getLsbD 0, prio := (w >>> 15).getLsbD 0 }

/-- The revision-B entry of a word (43_tilemap_entry.md R189). -/
def unpackB (w : Half) : EntryB :=
  { tile := (w &&& 0x3FF).setWidth 10, pal := ((w >>> 12) &&& 15).setWidth 4, h := (w >>> 10).getLsbD 0,
    v := (w >>> 11).getLsbD 0 }

/-- The word a cell holds when the entry of word `w` under revision `rev` is stored in it: `pack(unpack(w))`, both
under that revision (44_tilemap.md R210, R214, R217, R220; 10_state.md R30). -/
def entryWord (rev : Revision) (w : Half) : Half :=
  match rev with
  | .a => packA (unpackA w)
  | .b => packB (unpackB w)

/-- The word of the default entry, every field zero, in either revision (10_state.md R33, log 6). -/
def defaultWord (rev : Revision) : Half :=
  match rev with
  | .a => packA { tile := 0, pal := 0, h := false, v := false, prio := false }
  | .b => packB { tile := 0, pal := 0, h := false, v := false }

/-- A grid of `n` default entries (44_tilemap.md R211, R216). -/
def defaultCells (rev : Revision) (n : Nat) : List Half := List.replicate n (defaultWord rev)

/-- The cells after a resize to `nw` x `nh`: a cell inside both grids keeps its `(x, y)`, every other cell is the
default entry (44_tilemap.md R215). -/
def resizedCells (s : State) (nw nh : Nat) : List Half :=
  (List.range (nw * nh)).map fun i =>
    if i % nw < s.tmW.toNat ∧ i / nw < s.tmH.toNat then
      cellWord s.cells (i / nw * s.tmW.toNat + i % nw)
    else defaultWord s.tmRev

/-- The cells an import reads: the entry of the word at bytes `2i`, `2i+1` (44_tilemap.md R220). -/
def importedCells (rev : Revision) (n : Nat) (pin : List Byte) : List Half :=
  (List.range n).map fun i => entryWord rev (memRead16 pin (2 * i))

/-- The tilemap blob: every cell's word in row-major order, low byte first (44_tilemap.md R218, 20_memory.md R56). -/
def exportCells (s : State) : List Byte :=
  (List.range (s.tmW.toNat * s.tmH.toNat)).flatMap fun i => memWrite16 (cellWord s.cells i)

/-- The palette blob: every colour word in index order, low byte first (41_palette.md R147, 20_memory.md R54). -/
def exportPal (s : State) : List Byte :=
  (List.finRange 256).flatMap fun i => memWrite16 (packColor (readPal s i))

/-- The palette an import reads (41_palette.md R148). -/
def importedPal (pin : List Byte) : Vector Color 256 :=
  Vector.ofFn fun i => unpackColor (memRead16 pin (2 * i.val))

/-- One byte of the planar blob: plane `p` of row `y`, column `x` at bit `7 - x` (42_tile.md R167). -/
def planeByte (s : State) (p : Nat) (y : Fin 8) : Byte :=
  (List.finRange 8).foldl
    (fun acc x => acc ||| ((((readPixel s x y >>> p) &&& 1).setWidth 8) <<< (7 - x.val))) 0

/-- The planar blob: four planes of eight row bytes (42_tile.md R167, 20_memory.md R55). -/
def planarBlob (s : State) : List Byte :=
  (List.range 4).flatMap fun p => (List.finRange 8).map fun y => planeByte s p y

/-- One pixel gathered from the four planes of a blob (42_tile.md R168). -/
def planarPixel (pin : List Byte) (x y : Fin 8) : BitVec 4 :=
  (List.range 4).foldl
    (fun acc p => acc ||| ((((memRead8 pin (8 * p + y.val)) >>> (7 - x.val)) &&& 1).setWidth 4 <<< p)) 0

/-- The tile of a blob (42_tile.md R168). -/
def planarTile (pin : List Byte) : Vector (Vector (BitVec 4) 8) 8 :=
  Vector.ofFn fun y => Vector.ofFn fun x => planarPixel pin x y

/-- Result layout `RC` (30_encoding.md R85). -/
def resColor (c : Color) : BitVec 64 := colorLanes c

/-- Result layout `RW` (30_encoding.md R85). -/
def resWord (w : Half) : BitVec 64 := place w 0

/-- Result layout `R8` (30_encoding.md R85). -/
def resChannels (r8 g8 b8 : Byte) : BitVec 64 := channelLanes r8 g8 b8

/-- Result layout `RP` (30_encoding.md R85). -/
def resPixel (c : BitVec 4) : BitVec 64 := place c 0

/-- Result layout `REA` (30_encoding.md R85). -/
def resEntryA (e : EntryA) : BitVec 64 := entryALanes e

/-- Result layout `REB`, bit 26 zero (30_encoding.md R85). -/
def resEntryB (e : EntryB) : BitVec 64 := entryBLanes e

end Sys2Proof.Machine
end

