-- ==== Sys2Proof/Machine/Color.lean ====
section
/-! DEFINITION. The COL family (40_color.md): pure functions of their operands; no block state is read or written
(R120). -/

namespace Sys2Proof.Machine

/-- `COL.NEW` (R121): each channel clamped to 0..31. -/
def execColNew (r8 g8 b8 : Byte) (s : State) : Host.Outcome State Fault Refusal :=
  succeed s (resColor { r := clampChannel r8, g := clampChannel g8, b := clampChannel b8 })

/-- `COL.PACK` (R122). -/
def execColPack (c : Color) (s : State) : Host.Outcome State Fault Refusal :=
  succeed s (resWord (packColor c))

/-- `COL.UNPACK` (R123). -/
def execColUnpack (w : Half) (s : State) : Host.Outcome State Fault Refusal :=
  succeed s (resColor (unpackColor w))

/-- `COL.TO8` (R124). -/
def execColTo8 (c : Color) (s : State) : Host.Outcome State Fault Refusal :=
  succeed s (resChannels (expand8 c.r) (expand8 c.g) (expand8 c.b))

/-- `COL.FROM8` (R125). -/
def execColFrom8 (r8 g8 b8 : Byte) (s : State) : Host.Outcome State Fault Refusal :=
  succeed s (resColor { r := reduce8 r8, g := reduce8 g8, b := reduce8 b8 })

end Sys2Proof.Machine
end

