-- ==== Sys2Proof/Machine/Entry.lean ====
section
/-! DEFINITION. The TME family (43_tilemap_entry.md): pure functions of their operands, one command per revision; no
block state is read or written (R180, R181). -/

namespace Sys2Proof.Machine

/-- `TME.NEW.A` (R184): tile and palette index clamped. -/
def execTmeNewA (tile : Half) (pal : Byte) (h v p : Bool) (s : State) : Host.Outcome State Fault Refusal :=
  succeed s (resEntryA { tile := clampTile tile.toNat, pal := clampPalA pal.toNat, h := h, v := v, prio := p })

/-- `TME.NEW.B` (R185): tile and palette index clamped. -/
def execTmeNewB (tile : Half) (pal : Byte) (h v : Bool) (s : State) : Host.Outcome State Fault Refusal :=
  succeed s (resEntryB { tile := clampTile tile.toNat, pal := clampPalB pal.toNat, h := h, v := v })

/-- `TME.PACK.A` (R186). -/
def execTmePackA (e : EntryA) (s : State) : Host.Outcome State Fault Refusal := succeed s (resWord (packA e))

/-- `TME.PACK.B` (R187). -/
def execTmePackB (e : EntryB) (s : State) : Host.Outcome State Fault Refusal := succeed s (resWord (packB e))

/-- `TME.UNPACK.A` (R188). -/
def execTmeUnpackA (w : Half) (s : State) : Host.Outcome State Fault Refusal := succeed s (resEntryA (unpackA w))

/-- `TME.UNPACK.B` (R189). -/
def execTmeUnpackB (w : Half) (s : State) : Host.Outcome State Fault Refusal := succeed s (resEntryB (unpackB w))

/-- `TME.SETTILE.A` (R190). -/
def execTmeSettileA (e : EntryA) (nv : Half) (s : State) : Host.Outcome State Fault Refusal :=
  succeed s (resEntryA { e with tile := clampTile nv.toNat })

/-- `TME.SETTILE.B` (R191). -/
def execTmeSettileB (e : EntryB) (nv : Half) (s : State) : Host.Outcome State Fault Refusal :=
  succeed s (resEntryB { e with tile := clampTile nv.toNat })

/-- `TME.SETPAL.A` (R192). -/
def execTmeSetpalA (e : EntryA) (nv : Half) (s : State) : Host.Outcome State Fault Refusal :=
  succeed s (resEntryA { e with pal := clampPalA nv.toNat })

/-- `TME.SETPAL.B` (R193). -/
def execTmeSetpalB (e : EntryB) (nv : Half) (s : State) : Host.Outcome State Fault Refusal :=
  succeed s (resEntryB { e with pal := clampPalB nv.toNat })

end Sys2Proof.Machine
end

