-- ==== Sys2Proof/Machine/Palette.lean ====
section
/-! DEFINITION. The PAL family (41_palette.md): reads and writes `PAL` only (R140). -/

namespace Sys2Proof.Machine

/-- `PAL.NEW` (R144): every colour black. -/
def execPalNew (s : State) : Host.Outcome State Fault Refusal :=
  succeed { s with pal := Vector.replicate 256 { r := 0, g := 0, b := 0 } } 0

/-- `PAL.GET` (R145): both indices wrap. -/
def execPalGet (sp ci : Byte) (s : State) : Host.Outcome State Fault Refusal :=
  succeed s (resColor (readPal s (palIndex sp ci)))

/-- `PAL.SET` (R146): both indices wrap; the write is never ignored. -/
def execPalSet (sp ci : Byte) (c : Color) (s : State) : Host.Outcome State Fault Refusal :=
  succeed (writePal s (palIndex sp ci) c) 0

/-- `PAL.EXPORT` (R147). -/
def execPalExport (s : State) : Host.Outcome State Fault Refusal := succeedWith s (exportPal s)

/-- `PAL.IMPORT` (R148): `LEN_MISMATCH` and nothing changed unless the payload has 512 bytes. -/
def execPalImport (pin : List Byte) (s : State) : Host.Outcome State Fault Refusal :=
  if pin.length = 512 then succeed { s with pal := importedPal pin } 0 else raise s .lenMismatch

end Sys2Proof.Machine
end

