-- ==== Sys2Proof/Machine/Tile.lean ====
section
/-! DEFINITION. The TILE family (42_tile.md): reads and writes `PIX` only (R160). -/

namespace Sys2Proof.Machine

/-- `TILE.NEW` (R164): every pixel 0. -/
def execTileNew (s : State) : Host.Outcome State Fault Refusal :=
  succeed { s with pix := Vector.replicate 8 (Vector.replicate 8 0) } 0

/-- `TILE.GETPX` (R165): 0 when either coordinate is out of range. -/
def execTileGetpx (x y : Byte) (s : State) : Host.Outcome State Fault Refusal :=
  match tileCoord x, tileCoord y with
  | some cx, some cy => succeed s (resPixel (readPixel s cx cy))
  | _, _ => succeed s (resPixel 0)

/-- `TILE.SETPX` (R166): silently ignored when a coordinate or the value is out of range. -/
def execTileSetpx (x y c : Byte) (s : State) : Host.Outcome State Fault Refusal :=
  match tileCoord x, tileCoord y, pixelValue c with
  | some cx, some cy, some v => succeed (writePixel s cx cy v) 0
  | _, _, _ => succeed s 0

/-- `TILE.ENC` (R167). -/
def execTileEnc (s : State) : Host.Outcome State Fault Refusal := succeedWith s (planarBlob s)

/-- `TILE.DEC` (R168): a payload of another length than 32 is a malformed command, `BADCMD`. -/
def execTileDec (pin : List Byte) (s : State) : Host.Outcome State Fault Refusal :=
  if pin.length = 32 then succeed { s with pix := planarTile pin } 0 else raise s .badCmd

end Sys2Proof.Machine
end

