-- ==== Sys2Proof/Machine/Tilemap.lean ====
section
/-! DEFINITION. The TM family (44_tilemap.md): reads and writes the tilemap state only (R209); entries cross as words
under `TM_REV` (R210). -/

namespace Sys2Proof.Machine

/-- `TM.NEW` (R211): both dimensions clamped to 1..256, every cell the default entry. -/
def execTmNew (width height : Half) (rev : Revision) (s : State) : Host.Outcome State Fault Refusal :=
  let w := clampDim width
  let h := clampDim height
  succeed (installMap s rev w h (defaultCells rev (w.toNat * h.toNat))) 0

/-- `TM.FREE` (R212). -/
def execTmFree (s : State) : Host.Outcome State Fault Refusal := succeed (freeMap s) 0

/-- `TM.GET` (R213): `ABSENT` outside the grid. -/
def execTmGet (x y : Half) (s : State) : Host.Outcome State Fault Refusal :=
  needMap s <|
    if inGrid s x y then succeed s (resWord (cellWord s.cells (cellIndex s x y))) else raise s .absent

/-- `TM.SET` (R214): silently ignored outside the grid. -/
def execTmSet (x y w : Half) (s : State) : Host.Outcome State Fault Refusal :=
  needMap s <|
    if inGrid s x y then succeed (writeCell s (cellIndex s x y) (entryWord s.tmRev w)) 0 else succeed s 0

/-- `TM.RESIZE` (R215): nothing changes when the clamped size is the size there is. -/
def execTmResize (width height : Half) (s : State) : Host.Outcome State Fault Refusal :=
  needMap s <|
    let nw := clampDim width
    let nh := clampDim height
    if nw = s.tmW ∧ nh = s.tmH then succeed s 0
    else succeed { s with tmW := nw, tmH := nh, cells := resizedCells s nw.toNat nh.toNat } 0

/-- `TM.CLEAR` (R216). -/
def execTmClear (s : State) : Host.Outcome State Fault Refusal :=
  needMap s <| succeed { s with cells := defaultCells s.tmRev (s.tmW.toNat * s.tmH.toNat) } 0

/-- `TM.FILL` (R217). -/
def execTmFill (w : Half) (s : State) : Host.Outcome State Fault Refusal :=
  needMap s <| succeed { s with cells := List.replicate (s.tmW.toNat * s.tmH.toNat) (entryWord s.tmRev w) } 0

/-- `TM.EXPORT` (R218). -/
def execTmExport (s : State) : Host.Outcome State Fault Refusal := needMap s <| succeedWith s (exportCells s)

/-- `TM.IMPORT` (R220): the dimensions are clamped first, then the length is compared. -/
def execTmImport (width height : Half) (rev : Revision) (pin : List Byte) (s : State) :
    Host.Outcome State Fault Refusal :=
  let w := clampDim width
  let h := clampDim height
  if pin.length = w.toNat * h.toNat * 2 then
    succeed (installMap s rev w h (importedCells rev (w.toNat * h.toNat) pin)) 0
  else raise s .lenMismatch

end Sys2Proof.Machine
end

