-- ==== Sys2Proof/Machine/Dispatch.lean ====
section
/-! DEFINITION. One arm per command, each a direct call of its meaning. -/

namespace Sys2Proof.Machine

def exec (i : Instr) (s : State) : Host.Outcome State Fault Refusal :=
  match i with
  | .colNew r8 g8 b8 => Sys2Proof.Machine.execColNew r8 g8 b8 s
  | .colPack c => Sys2Proof.Machine.execColPack c s
  | .colUnpack w => Sys2Proof.Machine.execColUnpack w s
  | .colTo8 c => Sys2Proof.Machine.execColTo8 c s
  | .colFrom8 r8 g8 b8 => Sys2Proof.Machine.execColFrom8 r8 g8 b8 s
  | .palNew => Sys2Proof.Machine.execPalNew s
  | .palGet sp ci => Sys2Proof.Machine.execPalGet sp ci s
  | .palSet sp ci c => Sys2Proof.Machine.execPalSet sp ci c s
  | .palExport => Sys2Proof.Machine.execPalExport s
  | .palImport pin => Sys2Proof.Machine.execPalImport pin s
  | .tileNew => Sys2Proof.Machine.execTileNew s
  | .tileGetpx x y => Sys2Proof.Machine.execTileGetpx x y s
  | .tileSetpx x y c => Sys2Proof.Machine.execTileSetpx x y c s
  | .tileEnc => Sys2Proof.Machine.execTileEnc s
  | .tileDec pin => Sys2Proof.Machine.execTileDec pin s
  | .tmeNewA tile pal h v p => Sys2Proof.Machine.execTmeNewA tile pal h v p s
  | .tmeNewB tile pal h v => Sys2Proof.Machine.execTmeNewB tile pal h v s
  | .tmePackA e => Sys2Proof.Machine.execTmePackA e s
  | .tmePackB e => Sys2Proof.Machine.execTmePackB e s
  | .tmeUnpackA w => Sys2Proof.Machine.execTmeUnpackA w s
  | .tmeUnpackB w => Sys2Proof.Machine.execTmeUnpackB w s
  | .tmeSettileA e nv => Sys2Proof.Machine.execTmeSettileA e nv s
  | .tmeSettileB e nv => Sys2Proof.Machine.execTmeSettileB e nv s
  | .tmeSetpalA e nv => Sys2Proof.Machine.execTmeSetpalA e nv s
  | .tmeSetpalB e nv => Sys2Proof.Machine.execTmeSetpalB e nv s
  | .tmNew width height rev => Sys2Proof.Machine.execTmNew width height rev s
  | .tmFree => Sys2Proof.Machine.execTmFree s
  | .tmGet x y => Sys2Proof.Machine.execTmGet x y s
  | .tmSet x y w => Sys2Proof.Machine.execTmSet x y w s
  | .tmResize width height => Sys2Proof.Machine.execTmResize width height s
  | .tmClear => Sys2Proof.Machine.execTmClear s
  | .tmFill w => Sys2Proof.Machine.execTmFill w s
  | .tmExport => Sys2Proof.Machine.execTmExport s
  | .tmImport width height rev pin => Sys2Proof.Machine.execTmImport width height rev pin s

end Sys2Proof.Machine
end

