-- ==== Sys2Proof/Machine/Port.lean ====
section
/-! DEFINITION. What the block does with what the host presents: decode and run a command, complete a malformed one
`BADCMD`, reset; and how one command word is put in front of the host's stream. -/

namespace Sys2Proof.Machine

/-- One command, presented at the port: the opcode and the fixed payload length are checked first, a malformed command
completes `BADCMD` (60_exceptions.md R243, R247), any other is run. A payload that has not `PLEN` bytes makes no command
(30_encoding.md R80, log 5). -/
def runCommand (c : Command) (s : State) : Host.Outcome State Fault Refusal :=
  if c.wellFormed then
    match decode s.hasTmap c with
    | .ok i => exec i s
    | .error _ => raise s .badCmd
  else .refused .payloadNotPlen

/-- One event of the host's stream (20_memory.md R61, 70_reset_and_hazards.md R270). -/
def runEvent (e : PortEvent) (s : State) : Host.Outcome State Fault Refusal :=
  match e with
  | .command c => runCommand c s
  | .reset => .next (resetBlock s)

/-- The next event is taken off the stream and run; with none the block does nothing (60_exceptions.md R246, log 1). -/
def runNext (s : State) : Host.Outcome State Fault Refusal :=
  match s.stream with
  | [] => .next s
  | e :: rest => runEvent e { s with stream := rest }

/-- `s` with a command in front of the host's stream. -/
def presentFirst (s : State) (c : Command) : State := { s with stream := .command c :: s.stream }

end Sys2Proof.Machine
end

