-- ==== Sys2Proof/Machine/Step.lean ====
section
/-! DEFINITION. One step of the machine, and how the host's checks place one command word before it. -/

namespace Sys2Proof.Machine

/-- One step: one event of the host's stream, atomically (20_memory.md R66). -/
def step (s : State) : Host.Outcome State Fault Refusal := runNext s

/-- `s` with the command of the table word `w` (its bits above `nbits` zero, its payload zero bytes) as the next
command the host presents (log 13). -/
def State.withFetchWord (s : State) (nbits w : Nat) : State := presentFirst s (tableCommand nbits w)

end Sys2Proof.Machine
end

