-- ==== Sys2Proof/Safety.lean ====
section
/-! DEFINITION. What claims about runs are stated in: the tilemap invariant of 10_state.md R29, the shape of a stream a
host can present, and when the host cannot tell two states apart. -/

namespace Sys2Proof.Machine

/-- The tilemap invariant (10_state.md R29): with a tilemap, both dimensions are 1 to 256 and there are exactly
`TM_W * TM_H` cells. -/
abbrev TilemapOk (s : State) : Prop :=
  s.tmValid = true →
    (1 ≤ s.tmW.toNat ∧ s.tmW.toNat ≤ 256) ∧ (1 ≤ s.tmH.toNat ∧ s.tmH.toNat ≤ 256) ∧
      s.cells.length = s.tmW.toNat * s.tmH.toNat

/-- Whether an event is one a host can present: a command's payload has `PLEN` bytes (30_encoding.md R80). -/
def PortEvent.presentable : PortEvent → Bool
  | .command c => c.wellFormed
  | .reset => true

/-- Everything the host will still present is presentable. -/
abbrev StreamOk (s : State) : Prop := s.stream.all PortEvent.presentable = true

/-- The same tilemap, or none in either: while `TM_VALID = 0` the other registers do not count (10_state.md R31, R34). -/
abbrev SameTilemap (s t : State) : Prop :=
  s.tmValid = t.tmValid ∧
    (s.tmValid = true → s.tmRev = t.tmRev ∧ s.tmW = t.tmW ∧ s.tmH = t.tmH ∧ s.cells = t.cells)

/-- Two states that differ at most in the last response, in the counter of free values and in tilemap registers that
are unspecified: the block holds the same, and the host will present the same. -/
abbrev SameBlock (s t : State) : Prop :=
  s.hasTmap = t.hasTmap ∧ s.pal = t.pal ∧ s.pix = t.pix ∧ SameTilemap s t ∧ s.stream = t.stream

/-- The registers of the TMAP unit are the same (10_state.md R28). -/
abbrev SameTilemapRegisters (s t : State) : Prop :=
  s.tmValid = t.tmValid ∧ s.tmRev = t.tmRev ∧ s.tmW = t.tmW ∧ s.tmH = t.tmH ∧ s.cells = t.cells

end Sys2Proof.Machine
end

