-- ==== Sys2Proof/Certificates/Slice0/Obligations.lean ====
section
/-! DEFINITION. The statements for the provers. Results and fields are written with numbers, from the rules' own
arithmetic, not with the model's codecs; the words used to state them stand first. -/

namespace Sys2Proof.Statement

open Sys2Proof Sys2Proof.Machine

/-- The response `OK` with a result word and no payload (30_encoding.md R84). -/
def okRes (res : BitVec 64) : Option Response := some { stat := .ok, res := res, rlen := 0, pout := [] }

/-- The response `OK` with `RES = 0` and a payload (30_encoding.md R84). -/
def okBytes (bytes : List Byte) : Option Response :=
  some { stat := .ok, res := 0, rlen := BitVec.ofNat 32 bytes.length, pout := bytes }

/-- The response of a command that does not complete `OK` (30_encoding.md R84). -/
def notOk (code : Stat) : Option Response := some { stat := code, res := 0, rlen := 0, pout := [] }

/-- `CMD[lo+n-1 : lo]`, by arithmetic on the word's number. -/
def bits (cmd : BitVec 64) (lo n : Nat) : BitVec n := BitVec.ofNat n (cmd.toNat / 2 ^ lo)

/-- `CMD[i]`, by arithmetic on the word's number. -/
def bit (cmd : BitVec 64) (i : Nat) : Bool := decide (cmd.toNat / 2 ^ i % 2 = 1)

/-- `CMD[63:56]` as a number. -/
def opc (cmd : BitVec 64) : Nat := cmd.toNat / 2 ^ 56

/-- Every command with opcode `op` and a payload length that `len` allows, whatever its other bits, decodes to
`f CMD PIN`; for an opcode of the TMAP unit, when the unit is present. -/
def DecodesTo (op : Nat) (len : Nat → Prop) (f : BitVec 64 → List Byte → Instr) : Prop :=
  ∀ (hasTmap : Bool) (c : Command), (op < 0x50 ∨ hasTmap = true) → opc c.cmd = op → len c.plen.toNat →
    decode hasTmap c = .ok (f c.cmd c.pin)

/-- Three channels in the byte lanes of `RC` and `R8`: third lane red, second green, first blue. -/
def lanes (r g b : Nat) : BitVec 64 := BitVec.ofNat 64 (r * 65536 + g * 256 + b)

/-- The `REA` word of an entry's fields. -/
def recA (tile pal : Nat) (h v p : Bool) : BitVec 64 :=
  BitVec.ofNat 64 (tile + pal * 2 ^ 16 + h.toNat * 2 ^ 24 + v.toNat * 2 ^ 25 + p.toNat * 2 ^ 26)

/-- The `REB` word of an entry's fields. -/
def recB (tile pal : Nat) (h v : Bool) : BitVec 64 :=
  BitVec.ofNat 64 (tile + pal * 2 ^ 16 + h.toNat * 2 ^ 24 + v.toNat * 2 ^ 25)

/-- The number of a colour word: red times 1024, green times 32, blue (20_memory.md R57). -/
def colorNumber (c : Color) : Nat := c.r.toNat * 1024 + c.g.toNat * 32 + c.b.toNat

/-- The colour whose word has number `w`, bit 15 dropped (40_color.md R123). -/
def colorOfNumber (w : Nat) : Color :=
  { r := BitVec.ofNat 5 (w / 1024), g := BitVec.ofNat 5 (w / 32), b := BitVec.ofNat 5 w }

/-- The number of the 16-bit item at offset `a` of a byte sequence, low byte first (20_memory.md R52). -/
def itemNumber (bytes : List Byte) (a : Nat) : Nat := (bytes.getD a 0).toNat + 256 * (bytes.getD (a + 1) 0).toNat

/-- A raw dimension clamped to 1..256 (44_tilemap.md). -/
def dim (v : Half) : Nat := max 1 (min 256 v.toNat)

/-- When a command is malformed, by number: the reserved opcodes of 30_encoding.md R88 (and 0x50 to 0x58 without the
TMAP unit), and a `PLEN` other than R87 requires. -/
abbrev Malformed (hasTmap : Bool) (c : Command) : Prop :=
  opc c.cmd ≤ 0x0F ∨ (0x15 ≤ opc c.cmd ∧ opc c.cmd ≤ 0x1F) ∨ (0x25 ≤ opc c.cmd ∧ opc c.cmd ≤ 0x2F) ∨
  (0x35 ≤ opc c.cmd ∧ opc c.cmd ≤ 0x3F) ∨ (0x4A ≤ opc c.cmd ∧ opc c.cmd ≤ 0x4F) ∨ 0x59 ≤ opc c.cmd ∨
  (hasTmap = false ∧ 0x50 ≤ opc c.cmd) ∨ (opc c.cmd = 0x34 ∧ c.plen.toNat ≠ 32) ∨
  (opc c.cmd ≠ 0x24 ∧ opc c.cmd ≠ 0x34 ∧ opc c.cmd ≠ 0x58 ∧ c.plen.toNat ≠ 0)

/-- The bits of `ARG` that the rule of opcode `op` reads, format by format (30_encoding.md R82, R83; the
`fields_read` of spec/opcode_table.json). -/
def readMask (op : Nat) : BitVec 64 :=
  if op = 0x10 ∨ op = 0x14 ∨ op = 0x32 then 0xFFFFFF
  else if op = 0x11 ∨ op = 0x13 then 0x1F1F1F
  else if op = 0x12 ∨ op = 0x44 ∨ op = 0x45 ∨ op = 0x56 then 0xFFFF
  else if op = 0x21 then 0xFFFF000000
  else if op = 0x22 then 0xFFFF1F1F1F
  else if op = 0x31 then 0xFFFF00
  else if op = 0x40 then 0x7FFFFFF
  else if op = 0x41 then 0x3FFFFFF
  else if op = 0x42 then 0x70703FF
  else if op = 0x43 then 0x30F03FF
  else if op = 0x46 ∨ op = 0x48 then 0xFFFF070703FF
  else if op = 0x47 ∨ op = 0x49 then 0xFFFF030F03FF
  else if op = 0x50 ∨ op = 0x58 then 0x1FFFFFFFF0000
  else if op = 0x52 ∨ op = 0x54 then 0xFFFFFFFF0000
  else if op = 0x53 then 0xFFFFFFFFFFFF
  else 0

/-- The family of a command: the high nibble of its opcode (30_encoding.md R90): 1 COL, 2 PAL, 3 TILE, 4 TME, 5 TM. -/
def family (i : Instr) : Nat := (opcodeOfInstr i).code.toNat / 16

/-- The commands that need a tilemap (44_tilemap.md R219). -/
def needsTilemap (i : Instr) : Bool :=
  [Opcode.tmGet, .tmSet, .tmResize, .tmClear, .tmFill, .tmExport].contains (opcodeOfInstr i)

/-- The commands that only read: the reads of the three stores, and the two families without a store (20_memory.md
R59, 40_color.md R120, 43_tilemap_entry.md R180). -/
def onlyReads (i : Instr) : Bool :=
  decide (family i = 1) || decide (family i = 4) ||
    [Opcode.palGet, .palExport, .tileGetpx, .tileEnc, .tmGet, .tmExport].contains (opcodeOfInstr i)

end Sys2Proof.Statement

open Sys2Proof Sys2Proof.Machine Sys2Proof.Statement

/-! COL family -/

/-- 40_color.md R121: COL.NEW clamps each channel to 0..31; nothing but the response changes. -/
def Obligations.ColNewClampsEachChannel : Prop :=
  DecodesTo 0x10 (· = 0) (fun w _ => .colNew (bits w 16 8) (bits w 8 8) (bits w 0 8)) ∧
  ∀ (r8 g8 b8 : Byte) (s : State), exec (.colNew r8 g8 b8) s =
    .next { s with response := okRes (lanes (min r8.toNat 31) (min g8.toNat 31) (min b8.toNat 31)) }

/-- 40_color.md R122: COL.PACK puts red in bits 14-10, green in 9-5, blue in 4-0, bit 15 zero. -/
def Obligations.ColPackBuildsFiveFiveFiveWord : Prop :=
  DecodesTo 0x11 (· = 0) (fun w _ => .colPack { r := bits w 16 5, g := bits w 8 5, b := bits w 0 5 }) ∧
  ∀ (c : Color) (s : State), exec (.colPack c) s =
    .next { s with response := okRes (BitVec.ofNat 64 (colorNumber c)) }

/-- 40_color.md R123: COL.UNPACK takes the three fields and ignores bit 15. -/
def Obligations.ColUnpackIgnoresTopBit : Prop :=
  DecodesTo 0x12 (· = 0) (fun w _ => .colUnpack (bits w 0 16)) ∧
  ∀ (w : Half) (s : State), exec (.colUnpack w) s =
    .next { s with response := okRes (lanes (w.toNat / 1024 % 32) (w.toNat / 32 % 32) (w.toNat % 32)) }

/-- 40_color.md R124: COL.TO8 expands each channel v to 8v + v/4. -/
def Obligations.ColTo8ReplicatesBits : Prop :=
  DecodesTo 0x13 (· = 0) (fun w _ => .colTo8 { r := bits w 16 5, g := bits w 8 5, b := bits w 0 5 }) ∧
  ∀ (c : Color) (s : State), exec (.colTo8 c) s =
    .next { s with response := okRes (lanes (8 * c.r.toNat + c.r.toNat / 4) (8 * c.g.toNat + c.g.toNat / 4)
      (8 * c.b.toNat + c.b.toNat / 4)) }

/-- 40_color.md R125: COL.FROM8 is the floor of each channel over 8 (90_conflicts.md C6). -/
def Obligations.ColFrom8ShiftsRight : Prop :=
  DecodesTo 0x14 (· = 0) (fun w _ => .colFrom8 (bits w 16 8) (bits w 8 8) (bits w 0 8)) ∧
  ∀ (r8 g8 b8 : Byte) (s : State), exec (.colFrom8 r8 g8 b8) s =
    .next { s with response := okRes (lanes (r8.toNat / 8) (g8.toNat / 8) (b8.toNat / 8)) }

/-- 40_color.md R126 (the spec's own inference in parts (b) and (d)): pack then unpack gives the colour back; unpack then
pack gives the word without bit 15; to 8 bits and back gives the colour back. -/
def Obligations.ColourCodecRoundTrips : Prop :=
  ∀ (s : State),
    (∀ c : Color, ∃ w : Half,
      exec (.colPack c) s = .next { s with response := okRes (w.setWidth 64) } ∧
      exec (.colUnpack w) s = .next { s with response := okRes (lanes c.r.toNat c.g.toNat c.b.toNat) }) ∧
    (∀ w : Half, ∃ c : Color,
      exec (.colUnpack w) s = .next { s with response := okRes (lanes c.r.toNat c.g.toNat c.b.toNat) } ∧
      exec (.colPack c) s = .next { s with response := okRes ((w &&& 0x7FFF).setWidth 64) }) ∧
    (∀ c : Color, ∃ r8 g8 b8 : Byte,
      exec (.colTo8 c) s = .next { s with response := okRes (lanes r8.toNat g8.toNat b8.toNat) } ∧
      exec (.colFrom8 r8 g8 b8) s = .next { s with response := okRes (lanes c.r.toNat c.g.toNat c.b.toNat) })

/-! PAL family -/

/-- 41_palette.md R144: PAL.NEW makes every colour (0,0,0) and changes nothing else. -/
def Obligations.PalNewMakesAllBlack : Prop :=
  DecodesTo 0x20 (· = 0) (fun _ _ => .palNew) ∧
  ∀ s : State, ∃ p : Vector Color 256, (∀ i : Fin 256, p[i] = { r := 0, g := 0, b := 0 }) ∧
    exec .palNew s = .next { s with pal := p, response := okRes 0 }

/-- 41_palette.md R143, R145: PAL.GET reads the cell 16*(sp mod 16) + (ci mod 16); nothing but the response changes. -/
def Obligations.PalGetWrapsBothIndices : Prop :=
  DecodesTo 0x21 (· = 0) (fun w _ => .palGet (bits w 32 8) (bits w 24 8)) ∧
  ∀ (sp ci : Byte) (s : State), ∃ i : Fin 256, i.val = 16 * (sp.toNat % 16) + ci.toNat % 16 ∧
    exec (.palGet sp ci) s =
      .next { s with response := okRes (lanes s.pal[i].r.toNat s.pal[i].g.toNat s.pal[i].b.toNat) }

/-- 41_palette.md R143, R146: PAL.SET writes exactly the cell 16*(sp mod 16) + (ci mod 16), for every index. -/
def Obligations.PalSetWritesOneWrappedCell : Prop :=
  DecodesTo 0x22 (· = 0) (fun w _ => .palSet (bits w 32 8) (bits w 24 8)
    { r := bits w 16 5, g := bits w 8 5, b := bits w 0 5 }) ∧
  ∀ (sp ci : Byte) (c : Color) (s : State), ∃ p : Vector Color 256,
    (∀ i : Fin 256, p[i] = if i.val = 16 * (sp.toNat % 16) + ci.toNat % 16 then c else s.pal[i]) ∧
    exec (.palSet sp ci c) s = .next { s with pal := p, response := okRes 0 }

/-- 41_palette.md R147: PAL.EXPORT gives 512 bytes, each colour word in index order, low byte first. -/
def Obligations.PalExportGivesLittleEndianWords : Prop :=
  DecodesTo 0x23 (· = 0) (fun _ _ => .palExport) ∧
  ∀ s : State, ∃ bytes : List Byte, bytes.length = 512 ∧
    (∀ i : Fin 256, bytes[2 * i.val]? = some (BitVec.ofNat 8 (colorNumber s.pal[i] % 256)) ∧
      bytes[2 * i.val + 1]? = some (BitVec.ofNat 8 (colorNumber s.pal[i] / 256))) ∧
    exec .palExport s = .next { s with response := okBytes bytes }

/-- 41_palette.md R148: PAL.IMPORT of 512 bytes replaces the palette; any other length completes LEN_MISMATCH with the
palette unchanged. -/
def Obligations.PalImportNeedsExactly512Bytes : Prop :=
  DecodesTo 0x24 (fun _ => True) (fun _ pin => .palImport pin) ∧
  ∀ (pin : List Byte) (s : State),
    (pin.length ≠ 512 → exec (.palImport pin) s = .next { s with response := notOk .lenMismatch }) ∧
    (pin.length = 512 → ∃ p : Vector Color 256,
      (∀ i : Fin 256, p[i] = colorOfNumber (itemNumber pin (2 * i.val))) ∧
      exec (.palImport pin) s = .next { s with pal := p, response := okRes 0 })

/-- 41_palette.md R149, part (b) the spec's own inference: import of an export leaves the palette; export of an import
gives the buffer back with bit 7 of every odd byte cleared (90_conflicts.md C2). -/
def Obligations.PaletteBlobRoundTrips : Prop :=
  (∀ s : State, ∃ bytes : List Byte, exec .palExport s = .next { s with response := okBytes bytes } ∧
    exec (.palImport bytes) s = .next { s with response := okRes 0 }) ∧
  (∀ (s : State) (pin : List Byte), pin.length = 512 → ∃ (t : State) (out : List Byte),
    exec (.palImport pin) s = .next t ∧ exec .palExport t = .next { t with response := okBytes out } ∧
    out.length = 512 ∧ (∀ k < 512, out.getD k 0 =
      if k % 2 = 0 then pin.getD k 0 else pin.getD k 0 &&& 0x7F))

/-- 41_palette.md R150 (the spec's own inference): reading the palette after a PAL.SET. -/
def Obligations.PalReadAfterWrite : Prop :=
  ∀ (sp ci sp' ci' : Byte) (c : Color) (s t : State), exec (.palSet sp ci c) s = .next t →
    ∃ r : Option Response, exec (.palGet sp' ci') t = .next { t with response := r } ∧
      if sp'.toNat % 16 = sp.toNat % 16 ∧ ci'.toNat % 16 = ci.toNat % 16 then
        r = okRes (lanes c.r.toNat c.g.toNat c.b.toNat)
      else exec (.palGet sp' ci') s = .next { s with response := r }

/-! TILE family -/

/-- 42_tile.md R164 (its value 0 is the spec's decision D9): TILE.NEW makes every pixel 0 and changes nothing else. -/
def Obligations.TileNewMakesAllZero : Prop :=
  DecodesTo 0x30 (· = 0) (fun _ _ => .tileNew) ∧
  ∀ s : State, ∃ p : Vector (Vector (BitVec 4) 8) 8, (∀ y x : Fin 8, p[y][x] = 0) ∧
    exec .tileNew s = .next { s with pix := p, response := okRes 0 }

/-- 42_tile.md R165: TILE.GETPX gives the pixel of column x and row y, and 0 when either is above 7. -/
def Obligations.TileGetpxReadsOrGivesZero : Prop :=
  DecodesTo 0x31 (· = 0) (fun w _ => .tileGetpx (bits w 8 8) (bits w 16 8)) ∧
  (∀ (x y : Byte) (s : State) (i j : Fin 8), x.toNat = i.val → y.toNat = j.val →
    exec (.tileGetpx x y) s = .next { s with response := okRes (BitVec.ofNat 64 s.pix[j][i].toNat) }) ∧
  (∀ (x y : Byte) (s : State), 8 ≤ x.toNat ∨ 8 ≤ y.toNat →
    exec (.tileGetpx x y) s = .next { s with response := okRes 0 })

/-- 42_tile.md R166, R161: TILE.SETPX writes one pixel when x < 8, y < 8 and c ≤ 15 and nothing otherwise, `OK` in both
cases (90_conflicts.md C1). -/
def Obligations.TileSetpxWritesOrIgnores : Prop :=
  DecodesTo 0x32 (· = 0) (fun w _ => .tileSetpx (bits w 8 8) (bits w 16 8) (bits w 0 8)) ∧
  ∀ (x y c : Byte) (s : State), ∃ p : Vector (Vector (BitVec 4) 8) 8,
    (∀ j i : Fin 8, p[j][i] =
      if c.toNat ≤ 15 ∧ j.val = y.toNat ∧ i.val = x.toNat then BitVec.ofNat 4 c.toNat else s.pix[j][i]) ∧
    exec (.tileSetpx x y c) s = .next { s with pix := p, response := okRes 0 }

/-- 42_tile.md R167 and 20_memory.md R55: TILE.ENC gives 32 bytes; bit 7-x of byte 8p+y is bit p of the pixel (x, y). -/
def Obligations.TileEncScattersPlanes : Prop :=
  DecodesTo 0x33 (· = 0) (fun _ _ => .tileEnc) ∧
  ∀ s : State, ∃ bytes : List Byte, bytes.length = 32 ∧
    (∀ (p : Fin 4) (y x : Fin 8),
      (bytes.getD (8 * p.val + y.val) 0).getLsbD (7 - x.val) = s.pix[y][x].getLsbD p.val) ∧
    exec .tileEnc s = .next { s with response := okBytes bytes }

/-- 42_tile.md, TILE.DEC: with 32 bytes it replaces the tile, gathering bit p of each pixel from plane p. The clause on
another length is the model's choice (log 12): the decoder never makes that instruction, and given to exec it completes
BADCMD with the tile unchanged; of the command at the port MalformedCommandCompletesBadcmd speaks. -/
def Obligations.TileDecGathersPlanes : Prop :=
  DecodesTo 0x34 (· = 32) (fun _ pin => .tileDec pin) ∧
  ∀ (pin : List Byte) (s : State),
    (pin.length ≠ 32 → exec (.tileDec pin) s = .next { s with response := notOk .badCmd }) ∧
    (pin.length = 32 → ∃ q : Vector (Vector (BitVec 4) 8) 8,
      (∀ (p : Fin 4) (y x : Fin 8),
        q[y][x].getLsbD p.val = (pin.getD (8 * p.val + y.val) 0).getLsbD (7 - x.val)) ∧
      exec (.tileDec pin) s = .next { s with pix := q, response := okRes 0 })

/-- 42_tile.md R170, part (b) the spec's own inference: the planar encoder and decoder are inverse to each other. -/
def Obligations.TileBlobRoundTrips : Prop :=
  (∀ s : State, ∃ bytes : List Byte, exec .tileEnc s = .next { s with response := okBytes bytes } ∧
    exec (.tileDec bytes) s = .next { s with response := okRes 0 }) ∧
  (∀ (s : State) (pin : List Byte), pin.length = 32 → ∃ t : State,
    exec (.tileDec pin) s = .next t ∧ exec .tileEnc t = .next { t with response := okBytes pin })

/-- 42_tile.md R171 (the spec's own inference): reading a pixel after a TILE.SETPX. -/
def Obligations.TileReadAfterWrite : Prop :=
  ∀ (x y c x' y' : Byte) (s t : State), exec (.tileSetpx x y c) s = .next t →
    ∃ r : Option Response, exec (.tileGetpx x' y') t = .next { t with response := r } ∧
      if x.toNat < 8 ∧ y.toNat < 8 ∧ c.toNat ≤ 15 ∧ x' = x ∧ y' = y then r = okRes (BitVec.ofNat 64 c.toNat)
      else exec (.tileGetpx x' y') s = .next { s with response := r }

/-! TME family -/

/-- 43_tilemap_entry.md R184: TME.NEW.A clamps tile to 1023 and palette to 7. -/
def Obligations.TmeNewAClamps : Prop :=
  DecodesTo 0x40 (· = 0)
    (fun w _ => .tmeNewA (bits w 0 16) (bits w 16 8) (bit w 24) (bit w 25) (bit w 26)) ∧
  ∀ (tile : Half) (pal : Byte) (h v p : Bool) (s : State), exec (.tmeNewA tile pal h v p) s =
    .next { s with response := okRes (recA (min tile.toNat 1023) (min pal.toNat 7) h v p) }

/-- 43_tilemap_entry.md R185: TME.NEW.B clamps tile to 1023 and palette to 15; the priority bit is ignored. -/
def Obligations.TmeNewBClamps : Prop :=
  DecodesTo 0x41 (· = 0) (fun w _ => .tmeNewB (bits w 0 16) (bits w 16 8) (bit w 24) (bit w 25)) ∧
  ∀ (tile : Half) (pal : Byte) (h v : Bool) (s : State), exec (.tmeNewB tile pal h v) s =
    .next { s with response := okRes (recB (min tile.toNat 1023) (min pal.toNat 15) h v) }

/-- 43_tilemap_entry.md R186: TME.PACK.A builds the revision-A word. -/
def Obligations.TmePackABuildsWord : Prop :=
  DecodesTo 0x42 (· = 0) (fun w _ => .tmePackA
    { tile := bits w 0 10, pal := bits w 16 3, h := bit w 24, v := bit w 25, prio := bit w 26 }) ∧
  ∀ (e : EntryA) (s : State), exec (.tmePackA e) s = .next { s with
    response := okRes (BitVec.ofNat 64 (e.tile.toNat + e.pal.toNat * 2 ^ 10 + e.h.toNat * 2 ^ 13 +
      e.v.toNat * 2 ^ 14 + e.prio.toNat * 2 ^ 15)) }

/-- 43_tilemap_entry.md R187: TME.PACK.B builds the revision-B word. -/
def Obligations.TmePackBBuildsWord : Prop :=
  DecodesTo 0x43 (· = 0) (fun w _ => .tmePackB
    { tile := bits w 0 10, pal := bits w 16 4, h := bit w 24, v := bit w 25 }) ∧
  ∀ (e : EntryB) (s : State), exec (.tmePackB e) s = .next { s with
    response := okRes (BitVec.ofNat 64 (e.tile.toNat + e.h.toNat * 2 ^ 10 + e.v.toNat * 2 ^ 11 +
      e.pal.toNat * 2 ^ 12)) }

/-- 43_tilemap_entry.md R188: TME.UNPACK.A takes the fields of the revision-A word. -/
def Obligations.TmeUnpackATakesFields : Prop :=
  DecodesTo 0x44 (· = 0) (fun w _ => .tmeUnpackA (bits w 0 16)) ∧
  ∀ (w : Half) (s : State), exec (.tmeUnpackA w) s = .next { s with
    response := okRes (recA (w.toNat % 1024) (w.toNat / 2 ^ 10 % 8) (w.getLsbD 13) (w.getLsbD 14) (w.getLsbD 15)) }

/-- 43_tilemap_entry.md R189: TME.UNPACK.B takes the fields of the revision-B word. -/
def Obligations.TmeUnpackBTakesFields : Prop :=
  DecodesTo 0x45 (· = 0) (fun w _ => .tmeUnpackB (bits w 0 16)) ∧
  ∀ (w : Half) (s : State), exec (.tmeUnpackB w) s = .next { s with
    response := okRes (recB (w.toNat % 1024) (w.toNat / 2 ^ 12) (w.getLsbD 10) (w.getLsbD 11)) }

/-- 43_tilemap_entry.md R190, R191: the tile setters replace the tile by the clamped value and keep the other fields. -/
def Obligations.TmeSettileReplacesTile : Prop :=
  DecodesTo 0x46 (· = 0) (fun w _ => .tmeSettileA
    { tile := bits w 0 10, pal := bits w 16 3, h := bit w 24, v := bit w 25, prio := bit w 26 } (bits w 32 16)) ∧
  DecodesTo 0x47 (· = 0) (fun w _ => .tmeSettileB
    { tile := bits w 0 10, pal := bits w 16 4, h := bit w 24, v := bit w 25 } (bits w 32 16)) ∧
  (∀ (e : EntryA) (nv : Half) (s : State), exec (.tmeSettileA e nv) s =
    .next { s with response := okRes (recA (min nv.toNat 1023) e.pal.toNat e.h e.v e.prio) }) ∧
  (∀ (e : EntryB) (nv : Half) (s : State), exec (.tmeSettileB e nv) s =
    .next { s with response := okRes (recB (min nv.toNat 1023) e.pal.toNat e.h e.v) })

/-- 43_tilemap_entry.md R192, R193: the palette setters replace the palette index by the clamped value and keep the
other fields. -/
def Obligations.TmeSetpalReplacesPalette : Prop :=
  DecodesTo 0x48 (· = 0) (fun w _ => .tmeSetpalA
    { tile := bits w 0 10, pal := bits w 16 3, h := bit w 24, v := bit w 25, prio := bit w 26 } (bits w 32 16)) ∧
  DecodesTo 0x49 (· = 0) (fun w _ => .tmeSetpalB
    { tile := bits w 0 10, pal := bits w 16 4, h := bit w 24, v := bit w 25 } (bits w 32 16)) ∧
  (∀ (e : EntryA) (nv : Half) (s : State), exec (.tmeSetpalA e nv) s =
    .next { s with response := okRes (recA e.tile.toNat (min nv.toNat 7) e.h e.v e.prio) }) ∧
  (∀ (e : EntryB) (nv : Half) (s : State), exec (.tmeSetpalB e nv) s =
    .next { s with response := okRes (recB e.tile.toNat (min nv.toNat 15) e.h e.v) })

/-- 43_tilemap_entry.md R194, part (b) the spec's own inference: within one revision packing and unpacking are inverse to
each other. -/
def Obligations.EntryCodecsRoundTrip : Prop :=
  ∀ s : State,
    (∀ e : EntryA, ∃ w : Half, exec (.tmePackA e) s = .next { s with response := okRes (w.setWidth 64) } ∧
      exec (.tmeUnpackA w) s = .next { s with response := okRes (recA e.tile.toNat e.pal.toNat e.h e.v e.prio) }) ∧
    (∀ e : EntryB, ∃ w : Half, exec (.tmePackB e) s = .next { s with response := okRes (w.setWidth 64) } ∧
      exec (.tmeUnpackB w) s = .next { s with response := okRes (recB e.tile.toNat e.pal.toNat e.h e.v) }) ∧
    (∀ w : Half, ∃ e : EntryA,
      exec (.tmeUnpackA w) s = .next { s with response := okRes (recA e.tile.toNat e.pal.toNat e.h e.v e.prio) } ∧
      exec (.tmePackA e) s = .next { s with response := okRes (w.setWidth 64) }) ∧
    (∀ w : Half, ∃ e : EntryB,
      exec (.tmeUnpackB w) s = .next { s with response := okRes (recB e.tile.toNat e.pal.toNat e.h e.v) } ∧
      exec (.tmePackB e) s = .next { s with response := okRes (w.setWidth 64) })

/-- 43_tilemap_entry.md R195 (the spec's own inference): a word packed under one revision and unpacked under the other
is another entry, with the same tile. -/
def Obligations.CrossingRevisionsKeepsOnlyTile : Prop :=
  ∀ s : State,
    (∀ e : EntryA, ∃ w : Half, exec (.tmePackA e) s = .next { s with response := okRes (w.setWidth 64) } ∧
      exec (.tmeUnpackB w) s = .next { s with response := okRes (recB e.tile.toNat
        (e.prio.toNat * 8 + e.v.toNat * 4 + e.h.toNat * 2 + e.pal.toNat / 4) (e.pal.getLsbD 0) (e.pal.getLsbD 1)) }) ∧
    (∀ e : EntryB, ∃ w : Half, exec (.tmePackB e) s = .next { s with response := okRes (w.setWidth 64) } ∧
      exec (.tmeUnpackA w) s = .next { s with response := okRes (recA e.tile.toNat
        (e.pal.toNat % 2 * 4 + e.v.toNat * 2 + e.h.toNat) (e.pal.getLsbD 1) (e.pal.getLsbD 2) (e.pal.getLsbD 3)) })

/-! TM family -/

/-- 44_tilemap.md R211 (the default cell 0x0000 is the spec's decision D10): TM.NEW clamps both dimensions on their own,
fills with default entries, and replaces any tilemap there was. -/
def Obligations.TmNewMakesDefaultGrid : Prop :=
  DecodesTo 0x50 (· = 0)
    (fun w _ => .tmNew (bits w 16 16) (bits w 32 16) (if bit w 48 then .b else .a)) ∧
  ∀ (width height : Half) (rev : Revision) (s : State), ∃ cs : List Half,
    cs.length = dim width * dim height ∧ (∀ i < dim width * dim height, cs[i]? = some 0) ∧
    exec (.tmNew width height rev) s = .next { s with
      tmValid := true, tmRev := rev, tmW := BitVec.ofNat 9 (dim width), tmH := BitVec.ofNat 9 (dim height),
      cells := cs, response := okRes 0 }

/-- 44_tilemap.md R212 (the spec's decision D11): TM.FREE leaves no tilemap, whatever the other tilemap registers then
hold; with none it changes nothing. Palette, tile and stream stay. -/
def Obligations.TmFreeDestroysTilemap : Prop :=
  DecodesTo 0x51 (· = 0) (fun _ _ => .tmFree) ∧
  (∀ s : State, s.tmValid = false → exec .tmFree s = .next { s with response := okRes 0 }) ∧
  (∀ s : State, ∃ t : State, exec .tmFree s = .next t ∧ t.tmValid = false ∧ t.response = okRes 0 ∧
    t.hasTmap = s.hasTmap ∧ t.pal = s.pal ∧ t.pix = s.pix ∧ t.stream = s.stream)

/-- 44_tilemap.md R213: TM.GET gives the word of the cell inside the grid, ABSENT outside it, NOMAP without a tilemap. -/
def Obligations.TmGetReadsCellOrAbsent : Prop :=
  DecodesTo 0x52 (· = 0) (fun w _ => .tmGet (bits w 16 16) (bits w 32 16)) ∧
  ∀ (x y : Half) (s : State), TilemapOk s →
    (s.tmValid = false → exec (.tmGet x y) s = .next { s with response := notOk .noMap }) ∧
    (s.tmValid = true → x.toNat < s.tmW.toNat → y.toNat < s.tmH.toNat → ∃ w : Half,
      s.cells[y.toNat * s.tmW.toNat + x.toNat]? = some w ∧
      exec (.tmGet x y) s = .next { s with response := okRes (w.setWidth 64) }) ∧
    (s.tmValid = true → s.tmW.toNat ≤ x.toNat ∨ s.tmH.toNat ≤ y.toNat →
      exec (.tmGet x y) s = .next { s with response := notOk .absent })

/-- 44_tilemap.md R214: TM.SET writes the word into the one cell inside the grid, does nothing outside it (both `OK`), and
completes NOMAP without a tilemap. -/
def Obligations.TmSetWritesOneCellOrNone : Prop :=
  DecodesTo 0x53 (· = 0) (fun w _ => .tmSet (bits w 16 16) (bits w 32 16) (bits w 0 16)) ∧
  (∀ (x y w : Half) (s : State), s.tmValid = false →
    exec (.tmSet x y w) s = .next { s with response := notOk .noMap }) ∧
  (∀ (x y w : Half) (s : State), s.tmValid = true → ∃ cs : List Half, cs.length = s.cells.length ∧
    (∀ j < s.cells.length, cs[j]? =
      if x.toNat < s.tmW.toNat ∧ y.toNat < s.tmH.toNat ∧ j = y.toNat * s.tmW.toNat + x.toNat then some w
      else s.cells[j]?) ∧
    exec (.tmSet x y w) s = .next { s with cells := cs, response := okRes 0 })

/-- 44_tilemap.md R215 (the default cell 0x0000 is the spec's decision D10): TM.RESIZE keeps every cell inside both the
old and the new grid at its (x, y), fills the rest with the default entry, is a no-op when the clamped size is the
size there is, and completes NOMAP without a tilemap. -/
def Obligations.TmResizeKeepsCommonCells : Prop :=
  DecodesTo 0x54 (· = 0) (fun w _ => .tmResize (bits w 16 16) (bits w 32 16)) ∧
  ∀ (width height : Half) (s : State), TilemapOk s →
    (s.tmValid = false → exec (.tmResize width height) s = .next { s with response := notOk .noMap }) ∧
    (s.tmValid = true → dim width = s.tmW.toNat ∧ dim height = s.tmH.toNat →
      exec (.tmResize width height) s = .next { s with response := okRes 0 }) ∧
    (s.tmValid = true → ¬ (dim width = s.tmW.toNat ∧ dim height = s.tmH.toNat) → ∃ cs : List Half,
      cs.length = dim width * dim height ∧
      (∀ x < dim width, ∀ y < dim height, cs[y * dim width + x]? =
        if x < s.tmW.toNat ∧ y < s.tmH.toNat then s.cells[y * s.tmW.toNat + x]? else some 0) ∧
      exec (.tmResize width height) s = .next { s with
        tmW := BitVec.ofNat 9 (dim width), tmH := BitVec.ofNat 9 (dim height), cells := cs, response := okRes 0 })

/-- 44_tilemap.md R216, R217 (the default cell 0x0000 is the spec's decision D10): TM.CLEAR and TM.FILL give every cell
the same word and keep the size and the revision; NOMAP without a tilemap. -/
def Obligations.TmClearAndFillEveryCell : Prop :=
  DecodesTo 0x55 (· = 0) (fun _ _ => .tmClear) ∧ DecodesTo 0x56 (· = 0) (fun w _ => .tmFill (bits w 0 16)) ∧
  (∀ (w : Half) (s : State), s.tmValid = false →
    exec .tmClear s = .next { s with response := notOk .noMap } ∧
    exec (.tmFill w) s = .next { s with response := notOk .noMap }) ∧
  (∀ (w : Half) (s : State), s.tmValid = true → ∃ zeros filled : List Half,
    zeros.length = s.tmW.toNat * s.tmH.toNat ∧ (∀ c ∈ zeros, c = 0) ∧
    filled.length = s.tmW.toNat * s.tmH.toNat ∧ (∀ c ∈ filled, c = w) ∧
    exec .tmClear s = .next { s with cells := zeros, response := okRes 0 } ∧
    exec (.tmFill w) s = .next { s with cells := filled, response := okRes 0 })

/-- 44_tilemap.md R218: TM.EXPORT gives TM_W*TM_H*2 bytes, each cell's word in row-major order, low byte first; NOMAP
without a tilemap. -/
def Obligations.TmExportGivesLittleEndianWords : Prop :=
  DecodesTo 0x57 (· = 0) (fun _ _ => .tmExport) ∧
  ∀ s : State, TilemapOk s →
    (s.tmValid = false → exec .tmExport s = .next { s with response := notOk .noMap }) ∧
    (s.tmValid = true → ∃ bytes : List Byte, bytes.length = s.tmW.toNat * s.tmH.toNat * 2 ∧
      (∀ x < s.tmW.toNat, ∀ y < s.tmH.toNat, ∃ w : Half, s.cells[y * s.tmW.toNat + x]? = some w ∧
        bytes[2 * (y * s.tmW.toNat + x)]? = some (BitVec.ofNat 8 (w.toNat % 256)) ∧
        bytes[2 * (y * s.tmW.toNat + x) + 1]? = some (BitVec.ofNat 8 (w.toNat / 256))) ∧
      exec .tmExport s = .next { s with response := okBytes bytes })

/-- 44_tilemap.md R220: TM.IMPORT compares the length with the clamped dimensions; on a match the whole tilemap state is
replaced, otherwise LEN_MISMATCH and nothing changes; it needs no tilemap. -/
def Obligations.TmImportNeedsExactLength : Prop :=
  DecodesTo 0x58 (fun _ => True)
    (fun w pin => .tmImport (bits w 16 16) (bits w 32 16) (if bit w 48 then .b else .a) pin) ∧
  ∀ (width height : Half) (rev : Revision) (pin : List Byte) (s : State),
    (pin.length ≠ dim width * dim height * 2 →
      exec (.tmImport width height rev pin) s = .next { s with response := notOk .lenMismatch }) ∧
    (pin.length = dim width * dim height * 2 → ∃ cs : List Half, cs.length = dim width * dim height ∧
      (∀ i < dim width * dim height, cs[i]? = some (BitVec.ofNat 16 (itemNumber pin (2 * i)))) ∧
      exec (.tmImport width height rev pin) s = .next { s with
        tmValid := true, tmRev := rev, tmW := BitVec.ofNat 9 (dim width), tmH := BitVec.ofNat 9 (dim height),
        cells := cs, response := okRes 0 })

/-- 44_tilemap.md R221 (the spec's own inference): the tilemap blob round trips both ways, with no bit lost. -/
def Obligations.TilemapBlobRoundTrips : Prop :=
  (∀ (s : State) (width height : Half), TilemapOk s → s.tmValid = true →
    width.toNat = s.tmW.toNat → height.toNat = s.tmH.toNat → ∃ bytes : List Byte,
      exec .tmExport s = .next { s with response := okBytes bytes } ∧
      exec (.tmImport width height s.tmRev bytes) s = .next { s with response := okRes 0 }) ∧
  (∀ (s : State) (width height : Half) (rev : Revision) (pin : List Byte),
    pin.length = dim width * dim height * 2 → ∃ t : State,
      exec (.tmImport width height rev pin) s = .next t ∧
      exec .tmExport t = .next { t with response := okBytes pin })

/-- 44_tilemap.md R222 (the spec's own inference): what TM.GET returns after a TM.SET inside the grid. -/
def Obligations.TmReadAfterWrite : Prop :=
  ∀ (x y w x' y' : Half) (s t : State), TilemapOk s → s.tmValid = true →
    x.toNat < s.tmW.toNat → y.toNat < s.tmH.toNat → exec (.tmSet x y w) s = .next t →
    ∃ r : Option Response, exec (.tmGet x' y') t = .next { t with response := r } ∧
      if x' = x ∧ y' = y then r = okRes (w.setWidth 64)
      else exec (.tmGet x' y') s = .next { s with response := r }

/-- 44_tilemap.md R222 (the spec's own inference; the default cell 0x0000 is decision D10): what TM.GET returns after a
TM.RESIZE. -/
def Obligations.TmReadAfterResize : Prop :=
  ∀ (width height x y : Half) (s t : State), TilemapOk s → s.tmValid = true →
    exec (.tmResize width height) s = .next t →
    (x.toNat < dim width → y.toNat < dim height → x.toNat < s.tmW.toNat → y.toNat < s.tmH.toNat → ∃ w : Half,
      s.cells[y.toNat * s.tmW.toNat + x.toNat]? = some w ∧
      exec (.tmGet x y) t = .next { t with response := okRes (w.setWidth 64) }) ∧
    (x.toNat < dim width → y.toNat < dim height → s.tmW.toNat ≤ x.toNat ∨ s.tmH.toNat ≤ y.toNat →
      exec (.tmGet x y) t = .next { t with response := okRes 0 }) ∧
    (dim width ≤ x.toNat ∨ dim height ≤ y.toNat →
      exec (.tmGet x y) t = .next { t with response := notOk .absent })

/-! The port -/

/-- A step takes the host's first event: with none the state stays, a command is run on the state with the command taken
off the stream, and one that decodes is exactly that instruction's meaning there. The stream in State is the model's choice
(log 1). -/
def Obligations.StepRunsDecodedInstruction : Prop :=
  (∀ s : State, s.stream = [] → step s = .next s) ∧
  (∀ (s : State) (c : Command) (rest : List PortEvent), s.stream = .command c :: rest →
    step s = runCommand c { s with stream := rest }) ∧
  (∀ (s : State) (c : Command) (rest : List PortEvent) (i : Instr), s.stream = .command c :: rest →
    c.plen.toNat = c.pin.length → decode s.hasTmap c = .ok i → step s = exec i { s with stream := rest })

/-- 30_encoding.md R88, 60_exceptions.md R243: a malformed command completes BADCMD and changes no state. -/
def Obligations.MalformedCommandCompletesBadcmd : Prop :=
  ∀ (c : Command) (s : State), c.plen.toNat = c.pin.length → Malformed s.hasTmap c →
    runCommand c s = .next { s with response := notOk .badCmd }

/-- 30_encoding.md R87: the commands that decode, and then to an instruction that can be presented, are exactly those that
are not malformed; for the two imports every payload length is accepted. -/
def Obligations.EveryOtherCommandDecodes : Prop :=
  ∀ (hasTmap : Bool) (c : Command), c.plen.toNat = c.pin.length →
    ((∃ i : Instr, decode hasTmap c = .ok i ∧ i.wellFormed = true) ↔ ¬ Malformed hasTmap c)

/-- 30_encoding.md R83: two commands that agree on the opcode, the payload and the bits the rule reads decode alike. -/
def Obligations.UnreadBitsAreIgnored : Prop :=
  ∀ (hasTmap : Bool) (c d : Command), opc c.cmd = opc d.cmd → c.plen = d.plen → c.pin = d.pin →
    c.cmd &&& readMask (opc c.cmd) = d.cmd &&& readMask (opc c.cmd) → decode hasTmap c = decode hasTmap d

/-- Every typed command that can be presented is read back from its encoding, all operands included. -/
def Obligations.DecodeOfEncodeIsIdentity : Prop :=
  ∀ i : Instr, i.wellFormed = true →
    (encode i).plen.toNat = (encode i).pin.length ∧ decode true (encode i) = .ok i

/-- The encoding examples of 30_encoding.md section 6, one or two of each family, at the port's decoder. -/
def Obligations.EncodingExamplesDecode : Prop :=
  decode true { cmd := 0x1000000000FF8007, plen := 0, pin := [] } = .ok (.colNew 255 128 7) ∧
  decode true { cmd := 0x22000012211F1000, plen := 0, pin := [] } = .ok (.palSet 18 33 { r := 31, g := 16, b := 0 }) ∧
  decode true { cmd := 0x3200000000000705, plen := 0, pin := [] } = .ok (.tileSetpx 7 0 5) ∧
  decode true { cmd := 0x40000000050703FF, plen := 0, pin := [] } = .ok (.tmeNewA 1023 7 true false true) ∧
  decode true { cmd := 0x490000C802030005, plen := 0, pin := [] } =
    .ok (.tmeSetpalB { tile := 5, pal := 3, h := false, v := true } 200) ∧
  decode true { cmd := 0x530000020002A455, plen := 0, pin := [] } = .ok (.tmSet 2 2 0xA455)

/-! The whole machine -/

/-- The state after reset (10_state.md R34; the palette's black is G1, the zero tile decision D9): black palette, zero
tile, no tilemap, and so the tilemap invariant holds. -/
def Obligations.ResetStateIsBlackZeroNoMap : Prop :=
  (∀ i : Fin 256, State.reset.pal[i] = { r := 0, g := 0, b := 0 }) ∧
  (∀ y x : Fin 8, State.reset.pix[y][x] = 0) ∧ State.reset.tmValid = false ∧ TilemapOk State.reset

/-- 70_reset_and_hazards.md R272 (the spec's own inference): what each command that shows state answers right after
reset. -/
def Obligations.FirstResponsesAfterReset : Prop :=
  (∀ sp ci : Byte, exec (.palGet sp ci) State.reset = .next { State.reset with response := okRes 0 }) ∧
  exec .palExport State.reset = .next { State.reset with response := okBytes (List.replicate 512 0) } ∧
  (∀ x y : Byte, exec (.tileGetpx x y) State.reset = .next { State.reset with response := okRes 0 }) ∧
  exec .tileEnc State.reset = .next { State.reset with response := okBytes (List.replicate 32 0) } ∧
  exec .tmFree State.reset = .next { State.reset with response := okRes 0 } ∧
  (∀ i : Instr, needsTilemap i = true → exec i State.reset = .next { State.reset with response := notOk .noMap })

/-- 70_reset_and_hazards.md R270, R271 (D18): the reset event, from any state, gives the reset values of the palette, the
tile and TM_VALID; what the host presents next and the parameter HAS_TMAP stay (the model's choice, logs 1 and 9). -/
def Obligations.ResetEventRestoresBlock : Prop :=
  ∀ (s : State) (rest : List PortEvent), s.stream = .reset :: rest → ∃ t : State, step s = .next t ∧
    t.pal = State.reset.pal ∧ t.pix = State.reset.pix ∧ t.tmValid = false ∧ t.stream = rest ∧ t.hasTmap = s.hasTmap

/-- 10_state.md R29: from every state that meets the tilemap invariant, reachable or not, a step gives a state that
meets it. -/
def Obligations.StepKeepsTilemapOk : Prop :=
  ∀ s t : State, TilemapOk s → step s = .next t → TilemapOk t

/-- 00_scope.md R10: whatever a host can present, the step completes, and the rest of the stream can be presented too. -/
def Obligations.EveryPresentedCommandCompletes : Prop :=
  ∀ s : State, StreamOk s → ∃ t : State, step s = .next t ∧ StreamOk t

/-- 30_encoding.md R84: every command leaves one response, with a code from 0 to 4 and a payload of RLEN bytes; whenever
the code is not OK, RES = 0, RLEN = 0 and the block state is unchanged. -/
def Obligations.ResponseOfEveryCommand : Prop :=
  ∀ (c : Command) (s : State), c.plen.toNat = c.pin.length → ∃ (t : State) (r : Response),
    runCommand c s = .next t ∧ t.response = some r ∧ r.stat.code.toNat ≤ 4 ∧ r.rlen.toNat = r.pout.length ∧
    (r.stat.code ≠ 0 → r.res = 0 ∧ r.rlen = 0 ∧ t = { s with response := some r })

/-- 60_exceptions.md R240 to R244: which command completes with which code, and exactly when. -/
def Obligations.CompletionCodesOfEachCommand : Prop :=
  ∀ (i : Instr) (s : State), i.wellFormed = true → ∃ (t : State) (r : Response),
    exec i s = .next t ∧ t.response = some r ∧
    (r.stat.code = 1 ↔ (∃ pin : List Byte, i = .palImport pin ∧ pin.length ≠ 512) ∨
      (∃ (width height : Half) (rev : Revision) (pin : List Byte), i = .tmImport width height rev pin ∧
        pin.length ≠ dim width * dim height * 2)) ∧
    (r.stat.code = 2 ↔ s.tmValid = true ∧ ∃ x y : Half, i = .tmGet x y ∧
      (s.tmW.toNat ≤ x.toNat ∨ s.tmH.toNat ≤ y.toNat)) ∧
    (r.stat.code = 4 ↔ s.tmValid = false ∧ needsTilemap i = true) ∧
    r.stat.code ≠ 3 ∧ r.stat.code.toNat ≤ 4

/-- 60_exceptions.md R249 (the spec's own inference): after a command whose code is not OK, the next command gives exactly
what it gives when the first had never been presented. -/
def Obligations.FailedCommandLeavesNoTrace : Prop :=
  ∀ (s t : State) (c d : Command) (rest : List PortEvent) (r : Response),
    s.stream = .command c :: .command d :: rest → step s = .next t → t.response = some r → r.stat ≠ .ok →
    step t = step { s with stream := .command d :: rest }

/-- 20_memory.md R59: a command that only reads leaves everything but the response as it was, and completes. -/
def Obligations.ReadsHaveNoSideEffect : Prop :=
  ∀ (i : Instr) (s : State), onlyReads i = true → ∃ r : Response, exec i s = .next { s with response := some r }

/-- 40_color.md R120, 41_palette.md R140, 42_tile.md R160, 43_tilemap_entry.md R180, 44_tilemap.md R209: each family
writes its own store only; the stream and the parameter are never written. -/
def Obligations.FamiliesWriteOnlyTheirStore : Prop :=
  ∀ (i : Instr) (s : State), ∃ t : State, exec i s = .next t ∧
    t.stream = s.stream ∧ t.hasTmap = s.hasTmap ∧
    (family i ≠ 2 → t.pal = s.pal) ∧ (family i ≠ 3 → t.pix = s.pix) ∧
    (family i ≠ 5 → SameTilemapRegisters t s ∧ t.freeCount = s.freeCount)

/-- 40_color.md R120, 41_palette.md R140, 42_tile.md R160, 43_tilemap_entry.md R180, 44_tilemap.md R209: what a command
answers and writes depends on its operands and on its own family's store only. -/
def Obligations.FamiliesReadOnlyTheirStore : Prop :=
  ∀ (i : Instr) (s t s' t' : State), exec i s = .next s' → exec i t = .next t' →
    (family i = 1 ∨ family i = 4 → s'.response = t'.response) ∧
    (family i = 2 → s.pal = t.pal → s'.response = t'.response ∧ s'.pal = t'.pal) ∧
    (family i = 3 → s.pix = t.pix → s'.response = t'.response ∧ s'.pix = t'.pix) ∧
    (family i = 5 → SameTilemap s t → s'.response = t'.response ∧ SameTilemap s' t')

/-- 10_state.md R22, R31, R34: the tilemap registers are unobservable while TM_VALID = 0, and no earlier response matters.
Two states that differ only there answer alike and stay so, for every event. -/
def Obligations.HiddenRegistersAreUnobservable : Prop :=
  ∀ s t : State, SameBlock s t →
    (∃ s' t' : State, step s = .next s' ∧ step t = .next t' ∧ SameBlock s' t' ∧
      (s.stream ≠ [] → s'.response = t'.response)) ∨
    (∃ r : Refusal, step s = .refused r ∧ step t = .refused r)
end

