-- ==== Sys2Proof/Laws/Decode.lean ====
section
/-! SUPPORT. What reading a field gives of a word built of placed values, and that the opcode map numbers every row
once. -/

namespace Sys2Proof

@[simp] theorem field_or (a b : BitVec 64) (lo n : Nat) : field (a ||| b) lo n = field a lo n ||| field b lo n := by
  apply BitVec.eq_of_getLsbD_eq; intro i hi
  simp only [field, BitVec.getLsbD_extractLsb', BitVec.getLsbD_or]; cases decide (i < n) <;> simp

@[simp] theorem field_zero (lo n : Nat) : field 0#64 lo n = 0#n := by
  apply BitVec.eq_of_getLsbD_eq; intro i hi; simp [field]

/-- Reading a placed value where it was placed. -/
theorem field_place_self {n : Nat} (v : BitVec n) (lo : Nat) (h : lo + n ≤ 64) : field (place v lo) lo n = v := by
  apply BitVec.eq_of_getLsbD_eq; intro i hi
  simp only [field, place, BitVec.getLsbD_extractLsb', BitVec.getLsbD_shiftLeft, BitVec.getLsbD_setWidth,
    Nat.add_sub_cancel_left]
  rw [decide_eq_true hi, decide_eq_true (by omega : lo + i < 64), decide_eq_true (by omega : i < 64),
    decide_eq_false (by omega : ¬ lo + i < lo)]
  simp

/-- Reading a field that lies wholly above a placed value. -/
theorem field_place_above {n : Nat} (v : BitVec n) (k lo m : Nat) (h : k + n ≤ lo) : field (place v k) lo m = 0 := by
  apply BitVec.eq_of_getLsbD_eq; intro i hi
  simp only [field, place, BitVec.getLsbD_extractLsb', BitVec.getLsbD_shiftLeft, BitVec.getLsbD_setWidth]
  rw [BitVec.getLsbD_of_ge v _ (by omega)]; simp

/-- Reading a field that lies wholly below a placed value. -/
theorem field_place_below {n : Nat} (v : BitVec n) (k lo m : Nat) (h : lo + m ≤ k) : field (place v k) lo m = 0 := by
  apply BitVec.eq_of_getLsbD_eq; intro i hi
  simp only [field, place, BitVec.getLsbD_extractLsb', BitVec.getLsbD_shiftLeft]
  rw [decide_eq_true (by omega : lo + i < k)]; simp

@[simp] theorem flagField_or (a b : BitVec 64) (i : Nat) :
    flagField (a ||| b) i = (flagField a i || flagField b i) := by simp [flagField]

@[simp] theorem flagField_zero (i : Nat) : flagField 0#64 i = false := by simp [flagField]

/-- Reading a placed bit where it was placed. -/
theorem flagField_place_self (f : Bool) (i : Nat) (h : i < 64) : flagField (place (BitVec.ofBool f) i) i = f := by
  simp only [flagField, place, BitVec.getLsbD_shiftLeft, BitVec.getLsbD_setWidth, Nat.sub_self]
  rw [decide_eq_true h, decide_eq_false (Nat.lt_irrefl i)]; cases f <;> rfl

/-- Reading a bit above a placed value. -/
theorem flagField_place_above {n : Nat} (v : BitVec n) (k i : Nat) (h : k + n ≤ i) : flagField (place v k) i = false := by
  simp only [flagField, place, BitVec.getLsbD_shiftLeft, BitVec.getLsbD_setWidth]
  rw [BitVec.getLsbD_of_ge v _ (by omega)]; simp

/-- Reading a bit below a placed value. -/
theorem flagField_place_below {n : Nat} (v : BitVec n) (k i : Nat) (h : i < k) : flagField (place v k) i = false := by
  simp only [flagField, place, BitVec.getLsbD_shiftLeft]; rw [decide_eq_true h]; simp

/-- The opcode map gives each row its own byte (30_encoding.md R90). -/
theorem opcodeOf_code (o : Opcode) : opcodeOf o.code = some o := by cases o <;> decide

/-- An opcode byte selects only the row that has it. -/
theorem code_of_opcodeOf {b : BitVec 8} {o : Opcode} (h : opcodeOf b = some o) : o.code = b := by
  have := List.find?_some h; simpa using this

end Sys2Proof
end

