-- ==== Sys2Proof/Laws/State.lean ====
section
/-! SUPPORT. One lemma per field of State for each named update of the block: what it sets and what it leaves. -/

namespace Sys2Proof.Machine

@[simp] theorem writePal_hasTmap (s : State) (i : Fin 256) (c : Color) : (writePal s i c).hasTmap = s.hasTmap := rfl
@[simp] theorem writePal_pal (s : State) (i : Fin 256) (c : Color) : (writePal s i c).pal = s.pal.set i c := rfl
@[simp] theorem writePal_pix (s : State) (i : Fin 256) (c : Color) : (writePal s i c).pix = s.pix := rfl
@[simp] theorem writePal_tmValid (s : State) (i : Fin 256) (c : Color) : (writePal s i c).tmValid = s.tmValid := rfl
@[simp] theorem writePal_tmRev (s : State) (i : Fin 256) (c : Color) : (writePal s i c).tmRev = s.tmRev := rfl
@[simp] theorem writePal_tmW (s : State) (i : Fin 256) (c : Color) : (writePal s i c).tmW = s.tmW := rfl
@[simp] theorem writePal_tmH (s : State) (i : Fin 256) (c : Color) : (writePal s i c).tmH = s.tmH := rfl
@[simp] theorem writePal_cells (s : State) (i : Fin 256) (c : Color) : (writePal s i c).cells = s.cells := rfl
@[simp] theorem writePal_stream (s : State) (i : Fin 256) (c : Color) : (writePal s i c).stream = s.stream := rfl
@[simp] theorem writePal_response (s : State) (i : Fin 256) (c : Color) : (writePal s i c).response = s.response := rfl
@[simp] theorem writePal_freeCount (s : State) (i : Fin 256) (c : Color) : (writePal s i c).freeCount = s.freeCount := rfl

@[simp] theorem writePixel_hasTmap (s : State) (x y : Fin 8) (c : BitVec 4) : (writePixel s x y c).hasTmap = s.hasTmap := rfl
@[simp] theorem writePixel_pal (s : State) (x y : Fin 8) (c : BitVec 4) : (writePixel s x y c).pal = s.pal := rfl
@[simp] theorem writePixel_pix (s : State) (x y : Fin 8) (c : BitVec 4) : (writePixel s x y c).pix = s.pix.set y (s.pix[y].set x c) := rfl
@[simp] theorem writePixel_tmValid (s : State) (x y : Fin 8) (c : BitVec 4) : (writePixel s x y c).tmValid = s.tmValid := rfl
@[simp] theorem writePixel_tmRev (s : State) (x y : Fin 8) (c : BitVec 4) : (writePixel s x y c).tmRev = s.tmRev := rfl
@[simp] theorem writePixel_tmW (s : State) (x y : Fin 8) (c : BitVec 4) : (writePixel s x y c).tmW = s.tmW := rfl
@[simp] theorem writePixel_tmH (s : State) (x y : Fin 8) (c : BitVec 4) : (writePixel s x y c).tmH = s.tmH := rfl
@[simp] theorem writePixel_cells (s : State) (x y : Fin 8) (c : BitVec 4) : (writePixel s x y c).cells = s.cells := rfl
@[simp] theorem writePixel_stream (s : State) (x y : Fin 8) (c : BitVec 4) : (writePixel s x y c).stream = s.stream := rfl
@[simp] theorem writePixel_response (s : State) (x y : Fin 8) (c : BitVec 4) : (writePixel s x y c).response = s.response := rfl
@[simp] theorem writePixel_freeCount (s : State) (x y : Fin 8) (c : BitVec 4) : (writePixel s x y c).freeCount = s.freeCount := rfl

@[simp] theorem writeCell_hasTmap (s : State) (i : Nat) (w : Half) : (writeCell s i w).hasTmap = s.hasTmap := rfl
@[simp] theorem writeCell_pal (s : State) (i : Nat) (w : Half) : (writeCell s i w).pal = s.pal := rfl
@[simp] theorem writeCell_pix (s : State) (i : Nat) (w : Half) : (writeCell s i w).pix = s.pix := rfl
@[simp] theorem writeCell_tmValid (s : State) (i : Nat) (w : Half) : (writeCell s i w).tmValid = s.tmValid := rfl
@[simp] theorem writeCell_tmRev (s : State) (i : Nat) (w : Half) : (writeCell s i w).tmRev = s.tmRev := rfl
@[simp] theorem writeCell_tmW (s : State) (i : Nat) (w : Half) : (writeCell s i w).tmW = s.tmW := rfl
@[simp] theorem writeCell_tmH (s : State) (i : Nat) (w : Half) : (writeCell s i w).tmH = s.tmH := rfl
@[simp] theorem writeCell_cells (s : State) (i : Nat) (w : Half) : (writeCell s i w).cells = s.cells.set i w := rfl
@[simp] theorem writeCell_stream (s : State) (i : Nat) (w : Half) : (writeCell s i w).stream = s.stream := rfl
@[simp] theorem writeCell_response (s : State) (i : Nat) (w : Half) : (writeCell s i w).response = s.response := rfl
@[simp] theorem writeCell_freeCount (s : State) (i : Nat) (w : Half) : (writeCell s i w).freeCount = s.freeCount := rfl

@[simp] theorem installMap_hasTmap (s : State) (rev : Revision) (w h : BitVec 9) (cells : List Half) : (installMap s rev w h cells).hasTmap = s.hasTmap := rfl
@[simp] theorem installMap_pal (s : State) (rev : Revision) (w h : BitVec 9) (cells : List Half) : (installMap s rev w h cells).pal = s.pal := rfl
@[simp] theorem installMap_pix (s : State) (rev : Revision) (w h : BitVec 9) (cells : List Half) : (installMap s rev w h cells).pix = s.pix := rfl
@[simp] theorem installMap_tmValid (s : State) (rev : Revision) (w h : BitVec 9) (cells : List Half) : (installMap s rev w h cells).tmValid = true := rfl
@[simp] theorem installMap_tmRev (s : State) (rev : Revision) (w h : BitVec 9) (cells : List Half) : (installMap s rev w h cells).tmRev = rev := rfl
@[simp] theorem installMap_tmW (s : State) (rev : Revision) (w h : BitVec 9) (cells : List Half) : (installMap s rev w h cells).tmW = w := rfl
@[simp] theorem installMap_tmH (s : State) (rev : Revision) (w h : BitVec 9) (cells : List Half) : (installMap s rev w h cells).tmH = h := rfl
@[simp] theorem installMap_cells (s : State) (rev : Revision) (w h : BitVec 9) (cells : List Half) : (installMap s rev w h cells).cells = cells := rfl
@[simp] theorem installMap_stream (s : State) (rev : Revision) (w h : BitVec 9) (cells : List Half) : (installMap s rev w h cells).stream = s.stream := rfl
@[simp] theorem installMap_response (s : State) (rev : Revision) (w h : BitVec 9) (cells : List Half) : (installMap s rev w h cells).response = s.response := rfl
@[simp] theorem installMap_freeCount (s : State) (rev : Revision) (w h : BitVec 9) (cells : List Half) : (installMap s rev w h cells).freeCount = s.freeCount := rfl

@[simp] theorem resetBlock_hasTmap (s : State) : (resetBlock s).hasTmap = s.hasTmap := rfl
@[simp] theorem resetBlock_pal (s : State) : (resetBlock s).pal = State.reset.pal := rfl
@[simp] theorem resetBlock_pix (s : State) : (resetBlock s).pix = State.reset.pix := rfl
@[simp] theorem resetBlock_tmValid (s : State) : (resetBlock s).tmValid = false := rfl
@[simp] theorem resetBlock_tmRev (s : State) : (resetBlock s).tmRev = .a := rfl
@[simp] theorem resetBlock_tmW (s : State) : (resetBlock s).tmW = 0 := rfl
@[simp] theorem resetBlock_tmH (s : State) : (resetBlock s).tmH = 0 := rfl
@[simp] theorem resetBlock_cells (s : State) : (resetBlock s).cells = [] := rfl
@[simp] theorem resetBlock_stream (s : State) : (resetBlock s).stream = s.stream := rfl
@[simp] theorem resetBlock_response (s : State) : (resetBlock s).response = none := rfl
@[simp] theorem resetBlock_freeCount (s : State) : (resetBlock s).freeCount = s.freeCount := rfl

@[simp] theorem freeMap_hasTmap (s : State) : (freeMap s).hasTmap = s.hasTmap := by unfold freeMap; split <;> rfl
@[simp] theorem freeMap_pal (s : State) : (freeMap s).pal = s.pal := by unfold freeMap; split <;> rfl
@[simp] theorem freeMap_pix (s : State) : (freeMap s).pix = s.pix := by unfold freeMap; split <;> rfl
@[simp] theorem freeMap_stream (s : State) : (freeMap s).stream = s.stream := by unfold freeMap; split <;> rfl
@[simp] theorem freeMap_response (s : State) : (freeMap s).response = s.response := by unfold freeMap; split <;> rfl

@[simp] theorem freeMap_tmValid (s : State) : (freeMap s).tmValid = false := by
  unfold freeMap; split <;> simp_all

/-- Without a tilemap `freeMap` is the identity (44_tilemap.md R212). -/
theorem freeMap_of_none {s : State} (h : s.tmValid = false) : freeMap s = s := by simp [freeMap, h]

end Sys2Proof.Machine
end

