-- ==== Sys2Proof/Laws/Ops.lean ====
section
/-! SUPPORT. What each shared operation can do, said once: completing, failing, the tilemap gate, payload bytes, the
stores, taking an event off the stream. -/

namespace Sys2Proof.Machine

/-- `complete` always answers a next state that differs in the response only. -/
theorem complete_eq (s : State) (code : Stat) (res : BitVec 64) (pout : List Byte) :
    complete s code res pout = .next { s with
      response := some { stat := code, res := res, rlen := BitVec.ofNat 32 pout.length, pout := pout } } := rfl

theorem succeed_eq (s : State) (res : BitVec 64) :
    succeed s res = .next { s with response := some { stat := .ok, res := res, rlen := 0, pout := [] } } := rfl

theorem succeedWith_eq (s : State) (pout : List Byte) :
    succeedWith s pout = .next { s with
      response := some { stat := .ok, res := 0, rlen := BitVec.ofNat 32 pout.length, pout := pout } } := rfl

theorem raise_eq (s : State) (code : Stat) :
    raise s code = .next { s with response := some { stat := code, res := 0, rlen := 0, pout := [] } } := rfl

@[simp] theorem needMap_of_valid {s : State} (h : s.tmValid = true) (act : Host.Outcome State Fault Refusal) :
    needMap s act = act := by simp [needMap, h]

@[simp] theorem needMap_of_none {s : State} (h : s.tmValid = false) (act : Host.Outcome State Fault Refusal) :
    needMap s act = raise s .noMap := by simp [needMap, h]

/-- A 16-bit item as a number: the byte at the lower offset is the low byte (20_memory.md R52). -/
theorem memRead16_toNat (pin : List Byte) (a : Nat) :
    (memRead16 pin a).toNat = (pin.getD a 0).toNat + 256 * (pin.getD (a + 1) 0).toNat := by
  have h1 := (pin.getD a 0).isLt
  have h2 := (pin.getD (a + 1) 0).isLt
  unfold memRead16 memRead8
  rw [BitVec.or_comm, BitVec.toNat_or, BitVec.toNat_shiftLeft, BitVec.toNat_setWidth, BitVec.toNat_setWidth,
    Nat.mod_eq_of_lt (by omega : (pin.getD a 0).toNat < 2 ^ 16),
    Nat.mod_eq_of_lt (by omega : (pin.getD (a + 1) 0).toNat < 2 ^ 16),
    Nat.mod_eq_of_lt (by rw [Nat.shiftLeft_eq]; omega), ← Nat.shiftLeft_add_eq_or_of_lt h1, Nat.shiftLeft_eq]
  omega

/-- The two bytes of a 16-bit item, as numbers (20_memory.md R52). -/
theorem memWrite16_eq (v : Half) :
    memWrite16 v = [BitVec.ofNat 8 (v.toNat % 256), BitVec.ofNat 8 (v.toNat / 256)] := by
  unfold memWrite16
  congr 1
  · apply BitVec.eq_of_toNat_eq; simp [BitVec.extractLsb'_toNat]
  · congr 1; apply BitVec.eq_of_toNat_eq; simp [BitVec.extractLsb'_toNat, Nat.shiftRight_eq_div_pow]

@[simp] theorem memWrite16_length (v : Half) : (memWrite16 v).length = 2 := rfl

/-- Reading an item back from a blob of items: the round trip of `MemWrite` and `MemRead`. -/
theorem flatMap_memWrite16_length {α : Type} (f : α → Half) (l : List α) :
    (l.flatMap fun a => memWrite16 (f a)).length = 2 * l.length := by
  induction l with
  | nil => rfl
  | cons a l ih => rw [List.flatMap_cons, List.length_append, ih, memWrite16_length, List.length_cons]; omega

/-- The bytes of the item at place `i` of a blob of items. -/
theorem flatMap_memWrite16_getElem? {α : Type} (f : α → Half) (l : List α) (i : Nat) (h : i < l.length) :
    (l.flatMap fun a => memWrite16 (f a))[2 * i]? = some (BitVec.ofNat 8 ((f l[i]).toNat % 256)) ∧
    (l.flatMap fun a => memWrite16 (f a))[2 * i + 1]? = some (BitVec.ofNat 8 ((f l[i]).toNat / 256)) := by
  induction l generalizing i with
  | nil => simp at h
  | cons a l ih =>
    simp only [List.flatMap_cons, memWrite16_eq]
    cases i with
    | zero => simp
    | succ i =>
      have := ih i (by simpa using h)
      simp only [memWrite16_eq] at this
      simpa [Nat.mul_succ, List.getElem?_append_right] using this

/-- Setting a palette cell, read at every cell. -/
theorem getElem_set_fin {α : Type} {n : Nat} (v : Vector α n) (i j : Fin n) (a : α) :
    (v.set i a)[j] = if j = i then a else v[j] := by
  simp only [Fin.getElem_fin, Vector.getElem_set, Fin.ext_iff, eq_comm]

/-- The pixel at every place after one pixel is written. -/
theorem writePixel_getElem (s : State) (x y : Fin 8) (c : BitVec 4) (j i : Fin 8) :
    (writePixel s x y c).pix[j][i] = if j = y ∧ i = x then c else s.pix[j][i] := by
  rw [writePixel_pix, getElem_set_fin]
  by_cases hj : j = y
  · subst hj; simp only [if_true, true_and]; exact getElem_set_fin _ _ _ _
  · simp [hj]

/-- A step runs the first event of the stream on the state without it; with no event it changes nothing. -/
theorem runNext_nil {s : State} (h : s.stream = []) : runNext s = .next s := by simp [runNext, h]

theorem runNext_cons {s : State} {e : PortEvent} {rest : List PortEvent} (h : s.stream = e :: rest) :
    runNext s = runEvent e { s with stream := rest } := by simp [runNext, h]

/-- Everything a command at the port can do: run what it decodes to, complete `BADCMD`, or be no command. -/
theorem runCommand_cases (c : Command) (s : State) :
    (c.wellFormed = true ∧ ∃ i, decode s.hasTmap c = .ok i ∧ runCommand c s = exec i s) ∨
    (c.wellFormed = true ∧ ∃ e, decode s.hasTmap c = .error e ∧ runCommand c s = raise s .badCmd) ∨
    (c.wellFormed = false ∧ runCommand c s = .refused .payloadNotPlen) := by
  unfold runCommand
  cases hw : c.wellFormed
  · simp
  · cases hd : decode s.hasTmap c <;> simp

end Sys2Proof.Machine
end

