-- ==== Sys2Proof/Laws/Operands.lean ====
section
/-! SUPPORT. What each operand form and codec computes, as numbers or bit by bit: clamps, the palette index, range tests,
the colour and entry words, the planar codec, the cells of a grid. Provers cite these instead of unfolding. -/

namespace Sys2Proof.Machine

/-! Range policies -/

theorem clampTo_zero (hi v : Nat) : clampTo 0 hi v = min v hi := by unfold clampTo; split <;> (try split) <;> omega

theorem clampTo_dim (v : Nat) : clampTo 1 256 v = max 1 (min 256 v) := by
  unfold clampTo; split <;> (try split) <;> omega

theorem clampChannel_toNat (v : Byte) : (clampChannel v).toNat = min v.toNat 31 := by
  simp only [clampChannel, clampTo_zero, BitVec.toNat_ofNat]; omega

theorem clampTile_toNat (v : Nat) : (clampTile v).toNat = min v 1023 := by
  simp only [clampTile, clampTo_zero, BitVec.toNat_ofNat]; omega

theorem clampPalA_toNat (v : Nat) : (clampPalA v).toNat = min v 7 := by
  simp only [clampPalA, clampTo_zero, BitVec.toNat_ofNat]; omega

theorem clampPalB_toNat (v : Nat) : (clampPalB v).toNat = min v 15 := by
  simp only [clampPalB, clampTo_zero, BitVec.toNat_ofNat]; omega

theorem clampDim_eq (v : Half) : clampDim v = BitVec.ofNat 9 (max 1 (min 256 v.toNat)) := by
  simp only [clampDim, clampTo_dim]

theorem clampDim_toNat (v : Half) : (clampDim v).toNat = max 1 (min 256 v.toNat) := by
  simp only [clampDim_eq, BitVec.toNat_ofNat]; omega

theorem clampDim_bounds (v : Half) : 1 ≤ (clampDim v).toNat ∧ (clampDim v).toNat ≤ 256 := by
  rw [clampDim_toNat]; omega

@[simp] theorem palIndex_val (sp ci : Byte) : (palIndex sp ci).val = 16 * (sp.toNat % 16) + ci.toNat % 16 := rfl

theorem tileCoord_of_lt {v : Byte} (h : v.toNat < 8) : tileCoord v = some ⟨v.toNat, h⟩ := by simp [tileCoord, h]

theorem tileCoord_of_ge {v : Byte} (h : 8 ≤ v.toNat) : tileCoord v = none := by
  simp [tileCoord, Nat.not_lt.mpr h]

theorem pixelValue_of_le {c : Byte} (h : c.toNat ≤ 15) : pixelValue c = some (BitVec.ofNat 4 c.toNat) := by
  simp only [pixelValue, h, if_true, Option.some.injEq]
  apply BitVec.eq_of_toNat_eq; simp [BitVec.toNat_setWidth]

theorem pixelValue_of_gt {c : Byte} (h : 15 < c.toNat) : pixelValue c = none := by
  simp [pixelValue, Nat.not_le.mpr h]

/-! Words as numbers -/

theorem or_shift_toNat {n : Nat} (a b : BitVec n) (k : Nat) (ha : a.toNat < 2 ^ k) (hb : b.toNat * 2 ^ k < 2 ^ n) :
    (a ||| (b <<< k)).toNat = a.toNat + b.toNat * 2 ^ k := by
  rw [BitVec.toNat_or, BitVec.toNat_shiftLeft, Nat.shiftLeft_eq, Nat.mod_eq_of_lt hb, Nat.or_comm,
    ← Nat.shiftLeft_eq, ← Nat.shiftLeft_add_eq_or_of_lt ha, Nat.shiftLeft_eq, Nat.add_comm]

theorem setWidth_toNat_of_le {n m : Nat} (v : BitVec n) (h : n ≤ m) : (v.setWidth m).toNat = v.toNat := by
  rw [BitVec.toNat_setWidth]; exact Nat.mod_eq_of_lt (Nat.lt_of_lt_of_le v.isLt (Nat.pow_le_pow_right (by omega) h))

theorem packColor_toNat (c : Color) : (packColor c).toNat = c.r.toNat * 1024 + c.g.toNat * 32 + c.b.toNat := by
  have hr := c.r.isLt; have hg := c.g.isLt; have hb := c.b.isLt
  have e : packColor c = (c.b.setWidth 16 ||| (c.g.setWidth 16 <<< 5)) ||| (c.r.setWidth 16 <<< 10) := by
    unfold packColor; rw [BitVec.or_comm, BitVec.or_comm (c.r.setWidth 16 <<< 10), ← BitVec.or_assoc]
  have h1 : (c.b.setWidth 16 ||| (c.g.setWidth 16 <<< 5)).toNat = c.b.toNat + c.g.toNat * 2 ^ 5 := by
    rw [or_shift_toNat _ _ _ (by rw [setWidth_toNat_of_le _ (by omega)]; omega)
      (by rw [setWidth_toNat_of_le _ (by omega)]; omega), setWidth_toNat_of_le _ (by omega),
      setWidth_toNat_of_le _ (by omega)]
  rw [e, or_shift_toNat _ _ _ (by rw [h1]; omega) (by rw [setWidth_toNat_of_le _ (by omega)]; omega), h1,
    setWidth_toNat_of_le _ (by omega)]
  omega

theorem and_mask_toNat {n : Nat} (v : BitVec n) (k : Nat) (m : BitVec n) (hm : m.toNat = 2 ^ k - 1) :
    (v &&& m).toNat = v.toNat % 2 ^ k := by
  rw [BitVec.toNat_and, hm, Nat.and_two_pow_sub_one_eq_mod]

/-- The colour of a word, by number; bit 15 plays no part (40_color.md R123). -/
theorem unpackColor_eq (w : Half) : unpackColor w =
    { r := BitVec.ofNat 5 (w.toNat / 1024), g := BitVec.ofNat 5 (w.toNat / 32), b := BitVec.ofNat 5 w.toNat } := by
  simp only [unpackColor, Color.mk.injEq]
  refine ⟨?_, ?_, ?_⟩ <;> apply BitVec.eq_of_toNat_eq <;> rw [BitVec.toNat_setWidth, and_mask_toNat _ 5 _ rfl] <;>
    simp [Nat.shiftRight_eq_div_pow]

/-- Unpacking a packed colour gives it back. -/
theorem unpackColor_packColor (c : Color) : unpackColor (packColor c) = c := by
  have hr := c.r.isLt; have hg := c.g.isLt; have hb := c.b.isLt
  rw [unpackColor_eq, packColor_toNat]
  obtain ⟨r, g, b⟩ := c
  simp only [Color.mk.injEq]
  simp only at hr hg hb
  refine ⟨?_, ?_, ?_⟩ <;> apply BitVec.eq_of_toNat_eq <;> rw [BitVec.toNat_ofNat] <;> omega

theorem expand8_toNat (v : BitVec 5) : (expand8 v).toNat = 8 * v.toNat + v.toNat / 4 := by
  revert v; decide

theorem reduce8_toNat (v : Byte) : (reduce8 v).toNat = v.toNat / 8 := by
  have := v.isLt
  simp only [reduce8, BitVec.toNat_setWidth, BitVec.toNat_ushiftRight, Nat.shiftRight_eq_div_pow]; omega

theorem flagBit_toNat (f : Bool) : (flagBit f).toNat = f.toNat := by cases f <;> rfl

theorem packA_toNat (e : EntryA) : (packA e).toNat =
    e.tile.toNat + e.pal.toNat * 2 ^ 10 + e.h.toNat * 2 ^ 13 + e.v.toNat * 2 ^ 14 + e.prio.toNat * 2 ^ 15 := by
  obtain ⟨t, p, h, v, q⟩ := e
  have ht := t.isLt; have hp := p.isLt; have hh := Bool.toNat_le h; have hv := Bool.toNat_le v
  have hq := Bool.toNat_le q
  have t16 : (t.setWidth 16).toNat = t.toNat := setWidth_toNat_of_le _ (by omega)
  have p16 : (p.setWidth 16).toNat = p.toNat := setWidth_toNat_of_le _ (by omega)
  have e1 := or_shift_toNat (t.setWidth 16) (p.setWidth 16) 10 (by omega) (by omega)
  have e2 := or_shift_toNat _ (flagBit h) 13 (by rw [e1]; omega) (by rw [flagBit_toNat]; omega)
  have e3 := or_shift_toNat _ (flagBit v) 14 (by rw [e2, e1, flagBit_toNat]; omega) (by rw [flagBit_toNat]; omega)
  have e4 := or_shift_toNat _ (flagBit q) 15 (by rw [e3, e2, e1, flagBit_toNat, flagBit_toNat]; omega)
    (by rw [flagBit_toNat]; omega)
  rw [packA, e4, e3, e2, e1, t16, p16, flagBit_toNat, flagBit_toNat, flagBit_toNat]

theorem packB_toNat (e : EntryB) : (packB e).toNat =
    e.tile.toNat + e.h.toNat * 2 ^ 10 + e.v.toNat * 2 ^ 11 + e.pal.toNat * 2 ^ 12 := by
  obtain ⟨t, p, h, v⟩ := e
  have ht := t.isLt; have hp := p.isLt; have hh := Bool.toNat_le h; have hv := Bool.toNat_le v
  have t16 : (t.setWidth 16).toNat = t.toNat := setWidth_toNat_of_le _ (by omega)
  have p16 : (p.setWidth 16).toNat = p.toNat := setWidth_toNat_of_le _ (by omega)
  have e1 := or_shift_toNat (t.setWidth 16) (flagBit h) 10 (by omega) (by rw [flagBit_toNat]; omega)
  have e2 := or_shift_toNat _ (flagBit v) 11 (by rw [e1, flagBit_toNat]; omega) (by rw [flagBit_toNat]; omega)
  have e3 := or_shift_toNat _ (p.setWidth 16) 12 (by rw [e2, e1, flagBit_toNat, flagBit_toNat]; omega) (by omega)
  rw [packB, e3, e2, e1, t16, p16, flagBit_toNat, flagBit_toNat]

theorem unpackA_eq (w : Half) : unpackA w =
    { tile := BitVec.ofNat 10 w.toNat, pal := BitVec.ofNat 3 (w.toNat / 2 ^ 10), h := w.getLsbD 13, v := w.getLsbD 14,
      prio := w.getLsbD 15 } := by
  simp only [unpackA, EntryA.mk.injEq, BitVec.getLsbD_ushiftRight, and_true]
  refine ⟨?_, ?_⟩ <;> apply BitVec.eq_of_toNat_eq <;> rw [BitVec.toNat_setWidth]
  · rw [and_mask_toNat _ 10 _ rfl]; simp
  · rw [and_mask_toNat _ 3 _ rfl]; simp [Nat.shiftRight_eq_div_pow]

theorem unpackB_eq (w : Half) : unpackB w =
    { tile := BitVec.ofNat 10 w.toNat, pal := BitVec.ofNat 4 (w.toNat / 2 ^ 12), h := w.getLsbD 10,
      v := w.getLsbD 11 } := by
  simp only [unpackB, EntryB.mk.injEq, BitVec.getLsbD_ushiftRight, and_true]
  refine ⟨?_, ?_⟩ <;> apply BitVec.eq_of_toNat_eq <;> rw [BitVec.toNat_setWidth]
  · rw [and_mask_toNat _ 10 _ rfl]; simp
  · rw [and_mask_toNat _ 4 _ rfl]; simp [Nat.shiftRight_eq_div_pow]

theorem getLsbD_toNat (w : Half) (i : Nat) : (w.getLsbD i).toNat = w.toNat / 2 ^ i % 2 := by
  rw [BitVec.getLsbD, Nat.testBit_eq_decide_div_mod_eq]
  rcases Nat.mod_two_eq_zero_or_one (w.toNat / 2 ^ i) with h | h <;> simp [h]

/-- Packing an unpacked word gives it back, in either revision: a word has no unused bit (43_tilemap_entry.md R182). -/
theorem packA_unpackA (w : Half) : packA (unpackA w) = w := by
  have := w.isLt
  apply BitVec.eq_of_toNat_eq
  rw [packA_toNat, unpackA_eq]
  simp only [getLsbD_toNat, BitVec.toNat_ofNat]; omega

theorem packB_unpackB (w : Half) : packB (unpackB w) = w := by
  have := w.isLt
  apply BitVec.eq_of_toNat_eq
  rw [packB_toNat, unpackB_eq]
  simp only [getLsbD_toNat, BitVec.toNat_ofNat]; omega

/-- Storing an entry by its word stores the word (10_state.md R30). -/
@[simp] theorem entryWord_eq (rev : Revision) (w : Half) : entryWord rev w = w := by
  cases rev
  · exact packA_unpackA w
  · exact packB_unpackB w

/-- The default entry's word is 0x0000 in both revisions (10_state.md R33). -/
@[simp] theorem defaultWord_eq (rev : Revision) : defaultWord rev = 0 := by cases rev <;> decide

/-! Result words -/

theorem place_toNat {n : Nat} (v : BitVec n) (lo : Nat) (h : v.toNat * 2 ^ lo < 2 ^ 64) :
    (place v lo).toNat = v.toNat * 2 ^ lo := by
  have hv : v.toNat < 2 ^ 64 := Nat.lt_of_le_of_lt (Nat.le_mul_of_pos_right _ (by positivity)) h
  rw [place, BitVec.toNat_shiftLeft, BitVec.toNat_setWidth, Nat.mod_eq_of_lt hv, Nat.shiftLeft_eq,
    Nat.mod_eq_of_lt h]

theorem or_place_toNat (a : BitVec 64) {n : Nat} (v : BitVec n) (lo : Nat) (ha : a.toNat < 2 ^ lo)
    (h : v.toNat * 2 ^ lo < 2 ^ 64) : (a ||| place v lo).toNat = a.toNat + v.toNat * 2 ^ lo := by
  rw [BitVec.toNat_or, place_toNat v lo h, Nat.or_comm, ← Nat.shiftLeft_eq,
    ← Nat.shiftLeft_add_eq_or_of_lt ha, Nat.shiftLeft_eq, Nat.add_comm]

theorem threeLanes_toNat {n : Nat} (hn : n ≤ 8) (r g b : BitVec n) :
    (place r 16 ||| place g 8 ||| place b 0).toNat = r.toNat * 65536 + g.toNat * 256 + b.toNat := by
  have hr := Nat.lt_of_lt_of_le r.isLt (Nat.pow_le_pow_right (by omega) hn)
  have hg := Nat.lt_of_lt_of_le g.isLt (Nat.pow_le_pow_right (by omega) hn)
  have hb := Nat.lt_of_lt_of_le b.isLt (Nat.pow_le_pow_right (by omega) hn)
  have e : place r 16 ||| place g 8 ||| place b 0 = (place b 0 ||| place g 8) ||| place r 16 := by
    rw [BitVec.or_comm, BitVec.or_comm (place r 16), ← BitVec.or_assoc]
  have e0 : (place b 0).toNat = b.toNat := by rw [place_toNat _ _ (by omega)]; omega
  have e1 := or_place_toNat (place b 0) g 8 (by omega) (by omega)
  rw [e, or_place_toNat _ r 16 (by omega) (by omega), e1, e0]; omega

theorem resColor_toNat (c : Color) :
    (resColor c).toNat = c.r.toNat * 65536 + c.g.toNat * 256 + c.b.toNat := threeLanes_toNat (by omega) _ _ _

theorem resChannels_toNat (r8 g8 b8 : Byte) :
    (resChannels r8 g8 b8).toNat = r8.toNat * 65536 + g8.toNat * 256 + b8.toNat := threeLanes_toNat (by omega) _ _ _

theorem resWord_toNat (w : Half) : (resWord w).toNat = w.toNat := by
  have := w.isLt; rw [resWord, place_toNat _ _ (by omega)]; omega

theorem resPixel_toNat (c : BitVec 4) : (resPixel c).toNat = c.toNat := by
  have := c.isLt; rw [resPixel, place_toNat _ _ (by omega)]; omega

theorem ofBool_toNat (f : Bool) : (BitVec.ofBool f).toNat = f.toNat := by cases f <;> rfl

theorem resEntryB_toNat (e : EntryB) : (resEntryB e).toNat =
    e.tile.toNat + e.pal.toNat * 2 ^ 16 + e.h.toNat * 2 ^ 24 + e.v.toNat * 2 ^ 25 := by
  obtain ⟨t, p, h, v⟩ := e
  have ht := t.isLt; have hp := p.isLt; have hh := Bool.toNat_le h; have hv := Bool.toNat_le v
  have oh := ofBool_toNat h; have ov := ofBool_toNat v
  have e0 : (place t 0).toNat = t.toNat := by rw [place_toNat _ _ (by omega)]; omega
  have e1 := or_place_toNat (place t 0) p 16 (by omega) (by omega)
  have e2 := or_place_toNat _ (BitVec.ofBool h) 24 (by rw [e1]; omega) (by omega)
  have e3 := or_place_toNat _ (BitVec.ofBool v) 25 (by rw [e2, e1]; omega) (by omega)
  rw [resEntryB, entryBLanes, placeFlag, placeFlag, e3, e2, e1, e0, oh, ov]

theorem resEntryA_toNat (e : EntryA) : (resEntryA e).toNat =
    e.tile.toNat + e.pal.toNat * 2 ^ 16 + e.h.toNat * 2 ^ 24 + e.v.toNat * 2 ^ 25 + e.prio.toNat * 2 ^ 26 := by
  obtain ⟨t, p, h, v, q⟩ := e
  have ht := t.isLt; have hp := p.isLt; have hh := Bool.toNat_le h; have hv := Bool.toNat_le v
  have hq := Bool.toNat_le q
  have oh := ofBool_toNat h; have ov := ofBool_toNat v; have oq := ofBool_toNat q
  have e0 : (place t 0).toNat = t.toNat := by rw [place_toNat _ _ (by omega)]; omega
  have e1 := or_place_toNat (place t 0) p 16 (by omega) (by omega)
  have e2 := or_place_toNat _ (BitVec.ofBool h) 24 (by rw [e1]; omega) (by omega)
  have e3 := or_place_toNat _ (BitVec.ofBool v) 25 (by rw [e2, e1]; omega) (by omega)
  have e4 := or_place_toNat _ (BitVec.ofBool q) 26 (by rw [e3, e2, e1]; omega) (by omega)
  rw [resEntryA, entryALanes, placeFlag, placeFlag, placeFlag, e4, e3, e2, e1, e0, oh, ov, oq]

/-! Blobs -/

theorem exportPal_length (s : State) : (exportPal s).length = 512 := by
  rw [exportPal, flatMap_memWrite16_length, List.length_finRange]

/-- The bytes of each colour in the palette blob (20_memory.md R54). -/
theorem exportPal_getElem? (s : State) (i : Fin 256) :
    (exportPal s)[2 * i.val]? = some (BitVec.ofNat 8 ((packColor s.pal[i]).toNat % 256)) ∧
    (exportPal s)[2 * i.val + 1]? = some (BitVec.ofNat 8 ((packColor s.pal[i]).toNat / 256)) := by
  have := flatMap_memWrite16_getElem? (fun i => packColor (readPal s i)) (List.finRange 256) i.val
    (by rw [List.length_finRange]; exact i.isLt)
  rw [List.getElem_finRange] at this
  exact this

theorem importedPal_getElem (pin : List Byte) (i : Fin 256) :
    (importedPal pin)[i] = unpackColor (memRead16 pin (2 * i.val)) := by
  simp only [importedPal, Fin.getElem_fin, Vector.getElem_ofFn]

theorem exportCells_length (s : State) : (exportCells s).length = s.tmW.toNat * s.tmH.toNat * 2 := by
  rw [exportCells, flatMap_memWrite16_length, List.length_range]; omega

/-- The bytes of each cell in the tilemap blob (20_memory.md R56). -/
theorem exportCells_getElem? (s : State) (i : Nat) (h : i < s.tmW.toNat * s.tmH.toNat) :
    (exportCells s)[2 * i]? = some (BitVec.ofNat 8 ((cellWord s.cells i).toNat % 256)) ∧
    (exportCells s)[2 * i + 1]? = some (BitVec.ofNat 8 ((cellWord s.cells i).toNat / 256)) := by
  have := flatMap_memWrite16_getElem? (fun i => cellWord s.cells i) (List.range (s.tmW.toNat * s.tmH.toNat)) i
    (by simpa using h)
  simpa [exportCells] using this

@[simp] theorem importedCells_length (rev : Revision) (n : Nat) (pin : List Byte) :
    (importedCells rev n pin).length = n := by simp [importedCells]

theorem importedCells_getElem? (rev : Revision) (n : Nat) (pin : List Byte) (i : Nat) (h : i < n) :
    (importedCells rev n pin)[i]? = some (memRead16 pin (2 * i)) := by
  simp [importedCells, h]

@[simp] theorem defaultCells_length (rev : Revision) (n : Nat) : (defaultCells rev n).length = n := by
  simp [defaultCells]

@[simp] theorem resizedCells_length (s : State) (nw nh : Nat) : (resizedCells s nw nh).length = nw * nh := by
  simp [resizedCells]

/-- The cell at each `(x, y)` of a resized grid (44_tilemap.md R215). -/
theorem resizedCells_getElem? (s : State) (nw nh x y : Nat) (hx : x < nw) (hy : y < nh) :
    (resizedCells s nw nh)[y * nw + x]? =
      some (if x < s.tmW.toNat ∧ y < s.tmH.toNat then cellWord s.cells (y * s.tmW.toNat + x) else 0) := by
  have hlt : y * nw + x < nw * nh := by
    calc y * nw + x < (y + 1) * nw := by rw [Nat.add_mul]; omega
      _ ≤ nh * nw := Nat.mul_le_mul_right _ hy
      _ = nw * nh := Nat.mul_comm _ _
  have hm : (y * nw + x) % nw = x := by rw [Nat.mul_comm, Nat.mul_add_mod, Nat.mod_eq_of_lt hx]
  have hd : (y * nw + x) / nw = y := by
    rw [Nat.mul_comm, Nat.mul_add_div (by omega), Nat.div_eq_of_lt hx, Nat.add_zero]
  simp [resizedCells, hlt, hm, hd]

/-- A bit of a plane byte is a bit of one pixel (42_tile.md R169). -/
theorem planeByte_getLsbD (s : State) (p : Fin 4) (y x : Fin 8) :
    (planeByte s p.val y).getLsbD (7 - x.val) = (readPixel s x y).getLsbD p.val := by
  simp only [planeByte, List.finRange_succ, List.finRange_zero, List.map_cons, List.map_nil, List.foldl_cons,
    List.foldl_nil]
  fin_cases x <;> fin_cases p <;> simp

/-- A bit of a gathered pixel is a bit of one blob byte (42_tile.md R169). -/
theorem planarPixel_getLsbD (pin : List Byte) (p : Fin 4) (y x : Fin 8) :
    (planarPixel pin x y).getLsbD p.val = (memRead8 pin (8 * p.val + y.val)).getLsbD (7 - x.val) := by
  simp only [planarPixel, List.range_succ, List.range_zero, List.nil_append, List.cons_append, List.foldl_cons,
    List.foldl_nil]
  fin_cases p <;> fin_cases x <;> simp

end Sys2Proof.Machine
end

