-- ==== Sys2Proof/Laws/Exec.lean ====
section
/-! SUPPORT. What running a command can do, said once over all commands: it always completes, it replaces the response,
it never looks at the response before it, and it takes nothing off the host's stream. -/

namespace Sys2Proof.Machine

/-- The shape of everything `exec` answers: some state with the same stream and parameter, and one response on top. -/
theorem exec_answers (i : Instr) (s : State) : ∃ (u : State) (r : Response),
    exec i s = .next { u with response := some r } ∧ u.stream = s.stream ∧ u.hasTmap = s.hasTmap ∧
      r.rlen = BitVec.ofNat 32 r.pout.length := by
  have done (u : State) (code : Stat) (res : BitVec 64) (pout : List Byte) (h1 : u.stream = s.stream)
      (h2 : u.hasTmap = s.hasTmap) : ∃ (v : State) (r : Response),
        complete u code res pout = .next { v with response := some r } ∧ v.stream = s.stream ∧
          v.hasTmap = s.hasTmap ∧ r.rlen = BitVec.ofNat 32 r.pout.length := ⟨u, _, rfl, h1, h2, rfl⟩
  cases i with
  | palImport pin => simp only [exec, execPalImport]; split <;> exact done _ _ _ _ rfl rfl
  | tileGetpx x y => simp only [exec, execTileGetpx]; split <;> exact done _ _ _ _ rfl rfl
  | tileSetpx x y c => simp only [exec, execTileSetpx]; split <;> exact done _ _ _ _ rfl rfl
  | tileDec pin => simp only [exec, execTileDec]; split <;> exact done _ _ _ _ rfl rfl
  | tmFree => exact done (freeMap s) _ _ _ (freeMap_stream s) (freeMap_hasTmap s)
  | tmGet x y =>
    simp only [exec, execTmGet, needMap]
    split
    · split <;> exact done _ _ _ _ rfl rfl
    · exact done _ _ _ _ rfl rfl
  | tmSet x y w =>
    simp only [exec, execTmSet, needMap]
    split
    · split <;> exact done _ _ _ _ rfl rfl
    · exact done _ _ _ _ rfl rfl
  | tmResize width height =>
    simp only [exec, execTmResize, needMap]
    split
    · split <;> exact done _ _ _ _ rfl rfl
    · exact done _ _ _ _ rfl rfl
  | tmClear => simp only [exec, execTmClear, needMap]; split <;> exact done _ _ _ _ rfl rfl
  | tmFill w => simp only [exec, execTmFill, needMap]; split <;> exact done _ _ _ _ rfl rfl
  | tmExport => simp only [exec, execTmExport, needMap]; split <;> exact done _ _ _ _ rfl rfl
  | tmImport width height rev pin =>
    simp only [exec, execTmImport]; split <;> exact done _ _ _ _ rfl rfl
  | _ => exact done _ _ _ _ rfl rfl

/-- No command looks at the response before it (10_state.md R22). -/
theorem exec_ignores_response (i : Instr) (s : State) (r : Option Response) :
    exec i { s with response := r } = exec i s := by
  cases i with
  | tmFree =>
    simp only [exec, execTmFree, freeMap, succeed, complete]
    split <;> rfl
  | tileGetpx x y => simp only [exec, execTileGetpx]; split <;> rfl
  | tileSetpx x y c => simp only [exec, execTileSetpx]; split <;> rfl
  | _ => rfl

end Sys2Proof.Machine
end

