-- ==== Sys2Proof/Laws/PerInstr.lean ====
section
/-! SUPPORT. The family OpcodeByte, one lemma per command: the word of a typed command carries its row's opcode in bits
63:56, whatever its operands (30_encoding.md R81). -/

namespace Sys2Proof.Laws.OpcodeByte

/-- Bits 63:56 of the encoded command are the opcode of its row, and select that row. -/
def Statement (i : Instr) : Prop :=
  opcodeField (encode i).cmd = (opcodeOfInstr i).code ∧ opcodeOf (opcodeField (encode i).cmd) = some (opcodeOfInstr i)

/-- Every operand lies below the opcode. -/
theorem argLanes_below (i : Instr) : field (argLanes i) 56 8 = 0 := by
  cases i <;> simp (disch := omega) [argLanes, colorLanes, channelLanes, entryALanes, entryBLanes, placeFlag,
    field_place_above]

/-- A command whose operands lie below the opcode carries its opcode. -/
theorem of_arg (i : Instr) (h : field (argLanes i) 56 8 = 0) : Statement i := by
  have e : opcodeField (encode i).cmd = (opcodeOfInstr i).code := by
    rw [opcodeField, encode, field_or, field_place_self _ _ (by omega), h]; simp
  exact ⟨e, e ▸ opcodeOf_code _⟩

theorem colNew (r8 g8 b8 : Byte) : Statement (.colNew r8 g8 b8) :=
  of_arg _ (argLanes_below _)

theorem colPack (c : Color) : Statement (.colPack c) :=
  of_arg _ (argLanes_below _)

theorem colUnpack (w : Half) : Statement (.colUnpack w) :=
  of_arg _ (argLanes_below _)

theorem colTo8 (c : Color) : Statement (.colTo8 c) :=
  of_arg _ (argLanes_below _)

theorem colFrom8 (r8 g8 b8 : Byte) : Statement (.colFrom8 r8 g8 b8) :=
  of_arg _ (argLanes_below _)

theorem palNew : Statement (.palNew) :=
  of_arg _ (argLanes_below _)

theorem palGet (sp ci : Byte) : Statement (.palGet sp ci) :=
  of_arg _ (argLanes_below _)

theorem palSet (sp ci : Byte) (c : Color) : Statement (.palSet sp ci c) :=
  of_arg _ (argLanes_below _)

theorem palExport : Statement (.palExport) :=
  of_arg _ (argLanes_below _)

theorem palImport (pin : List Byte) : Statement (.palImport pin) :=
  of_arg _ (argLanes_below _)

theorem tileNew : Statement (.tileNew) :=
  of_arg _ (argLanes_below _)

theorem tileGetpx (x y : Byte) : Statement (.tileGetpx x y) :=
  of_arg _ (argLanes_below _)

theorem tileSetpx (x y c : Byte) : Statement (.tileSetpx x y c) :=
  of_arg _ (argLanes_below _)

theorem tileEnc : Statement (.tileEnc) :=
  of_arg _ (argLanes_below _)

theorem tileDec (pin : List Byte) : Statement (.tileDec pin) :=
  of_arg _ (argLanes_below _)

theorem tmeNewA (tile : Half) (pal : Byte) (h v p : Bool) : Statement (.tmeNewA tile pal h v p) :=
  of_arg _ (argLanes_below _)

theorem tmeNewB (tile : Half) (pal : Byte) (h v : Bool) : Statement (.tmeNewB tile pal h v) :=
  of_arg _ (argLanes_below _)

theorem tmePackA (e : EntryA) : Statement (.tmePackA e) :=
  of_arg _ (argLanes_below _)

theorem tmePackB (e : EntryB) : Statement (.tmePackB e) :=
  of_arg _ (argLanes_below _)

theorem tmeUnpackA (w : Half) : Statement (.tmeUnpackA w) :=
  of_arg _ (argLanes_below _)

theorem tmeUnpackB (w : Half) : Statement (.tmeUnpackB w) :=
  of_arg _ (argLanes_below _)

theorem tmeSettileA (e : EntryA) (nv : Half) : Statement (.tmeSettileA e nv) :=
  of_arg _ (argLanes_below _)

theorem tmeSettileB (e : EntryB) (nv : Half) : Statement (.tmeSettileB e nv) :=
  of_arg _ (argLanes_below _)

theorem tmeSetpalA (e : EntryA) (nv : Half) : Statement (.tmeSetpalA e nv) :=
  of_arg _ (argLanes_below _)

theorem tmeSetpalB (e : EntryB) (nv : Half) : Statement (.tmeSetpalB e nv) :=
  of_arg _ (argLanes_below _)

theorem tmNew (width height : Half) (rev : Revision) : Statement (.tmNew width height rev) :=
  of_arg _ (argLanes_below _)

theorem tmFree : Statement (.tmFree) :=
  of_arg _ (argLanes_below _)

theorem tmGet (x y : Half) : Statement (.tmGet x y) :=
  of_arg _ (argLanes_below _)

theorem tmSet (x y w : Half) : Statement (.tmSet x y w) :=
  of_arg _ (argLanes_below _)

theorem tmResize (width height : Half) : Statement (.tmResize width height) :=
  of_arg _ (argLanes_below _)

theorem tmClear : Statement (.tmClear) :=
  of_arg _ (argLanes_below _)

theorem tmFill (w : Half) : Statement (.tmFill w) :=
  of_arg _ (argLanes_below _)

theorem tmExport : Statement (.tmExport) :=
  of_arg _ (argLanes_below _)

theorem tmImport (width height : Half) (rev : Revision) (pin : List Byte) : Statement (.tmImport width height rev pin) :=
  of_arg _ (argLanes_below _)

end Sys2Proof.Laws.OpcodeByte
end

