-- ==== Sys2Proof/Tests/Slice0.lean ====
section
/-! SUPPORT. Tests of the model. Expected values come from the spec: the words of 30_encoding.md section 6 and the
vectors of 95_test_vectors.md, named in each comment. Then, for every obligation with hypotheses, a concrete case that
meets them. -/

namespace Sys2Proof.Tests

open Sys2Proof Sys2Proof.Machine Sys2Proof.Statement

/-! Helpers -/

/-- The command of a word and a payload of its own length. -/
def cmdOf (w : Nat) (pin : List Byte) : Command :=
  { cmd := BitVec.ofNat 64 w, plen := BitVec.ofNat 32 pin.length, pin := pin }

/-- A word has opcode `op`, a payload of `n` bytes, and decodes to `i`. -/
def reads (op n w : Nat) (pin : List Byte) (i : Instr) : Bool :=
  decide (opc (cmdOf w pin).cmd = op) && decide ((cmdOf w pin).plen.toNat = n) &&
    decide (decode true (cmdOf w pin) = .ok i)

/-- The response an outcome leaves. -/
def answer : Host.Outcome State Fault Refusal → Option Response
  | .next s => s.response
  | .fault _ => none
  | .refused _ => none

/-- Code and result word of an outcome. -/
def statRes (o : Host.Outcome State Fault Refusal) : Option (BitVec 3 × BitVec 64) :=
  (answer o).map fun r => (r.stat.code, r.res)

/-- Payload of an outcome. -/
def payload (o : Host.Outcome State Fault Refusal) : List Byte :=
  match answer o with
  | some r => r.pout
  | none => []

/-- The state an outcome leaves, `State.reset` for one that leaves none. -/
def left : Host.Outcome State Fault Refusal → State
  | .next s => s
  | .fault _ => State.reset
  | .refused _ => State.reset

/-- Whether an outcome is a refusal. -/
def refuses : Host.Outcome State Fault Refusal → Bool
  | .next _ => false
  | .fault _ => false
  | .refused _ => true

/-- The palette of vector P-2. -/
def pal33 : State := { State.reset with pal := State.reset.pal.set 33 { r := 31, g := 16, b := 0 } }

/-- The tile of vector T-7: (0,0) = 15 and (7,0) = 5. -/
def tileT7 : State :=
  { State.reset with pix := State.reset.pix.set 0 (((Vector.replicate 8 (0 : BitVec 4)).set 0 15).set 7 5) }

/-- The blob of vector T-7. -/
def blobT7 : List Byte :=
  [0x81, 0, 0, 0, 0, 0, 0, 0] ++ [0x80, 0, 0, 0, 0, 0, 0, 0] ++ [0x81, 0, 0, 0, 0, 0, 0, 0] ++ [0x80, 0, 0, 0, 0, 0, 0, 0]

/-- The tilemap of vector M-13, 2 by 2 in revision B. -/
def map22 : State :=
  { State.reset with tmValid := true, tmRev := .b, tmW := 2, tmH := 2, cells := [0x3805, 0x0000, 0xFFFF, 0xF000] }

/-- The tilemap of vector M-7, 3 by 2. -/
def map32 : State :=
  { State.reset with
    tmValid := true, tmRev := .a, tmW := 3, tmH := 2, cells := [0x1100, 0x1101, 0x1102, 0x1110, 0x1111, 0x1112] }

/-- A state whose next command is the given one. -/
def before (s : State) (c : Command) : State := { s with stream := [.command c] }

/-! What cannot be presented is refused by the well-formedness checks -/

theorem test_illFormed_command : (Command.mk 0x24 5 [0, 0]).wellFormed = false := by decide

theorem test_wellFormed_command : (Command.mk 0x24 2 [0, 0]).wellFormed = true := by decide

theorem test_illFormed_tileDec : (Instr.tileDec (List.replicate 31 0)).wellFormed = false := by decide

theorem test_illFormed_palImport : (Instr.palImport (List.replicate (2 ^ 32) 0)).wellFormed = false := by
  simp only [Instr.wellFormed, List.length_replicate, Nat.lt_irrefl, decide_false]

theorem test_illFormed_tmImport : (Instr.tmImport 1 1 .a (List.replicate (2 ^ 32) 0)).wellFormed = false := by
  simp only [Instr.wellFormed, List.length_replicate, Nat.lt_irrefl, decide_false]

theorem test_port_refuses_wrong_payload : refuses (step (before State.reset ⟨0x2400000000000000, 5, [0]⟩)) = true := by
  decide

/-! Decoding: the words of 30_encoding.md section 6 and of 95_test_vectors.md -/

theorem test_decode_colNew : reads 0x10 0 0x1000000000FF8007 [] (.colNew 255 128 7) = true := by decide

theorem test_decode_colPack : reads 0x11 0 0x11000000001F1000 [] (.colPack { r := 31, g := 16, b := 0 }) = true := by
  decide

/-- Vector C-27: reserved bits set. -/
theorem test_decode_colPack_reserved :
    reads 0x11 0 0x11FFFFFFFFFFFFFF [] (.colPack { r := 31, g := 31, b := 31 }) = true := by decide

theorem test_decode_colUnpack : reads 0x12 0 0x1200000000007E00 [] (.colUnpack 0x7E00) = true := by decide

theorem test_decode_colTo8 : reads 0x13 0 0x13000000001F1000 [] (.colTo8 { r := 31, g := 16, b := 0 }) = true := by
  decide

theorem test_decode_colFrom8 : reads 0x14 0 0x1400000000FF8007 [] (.colFrom8 255 128 7) = true := by decide

theorem test_decode_palNew : reads 0x20 0 0x2000000000000000 [] .palNew = true := by decide

theorem test_decode_palGet : reads 0x21 0 0x210000C864000000 [] (.palGet 200 100) = true := by decide

theorem test_decode_palSet :
    reads 0x22 0 0x22000012211F1000 [] (.palSet 18 33 { r := 31, g := 16, b := 0 }) = true := by decide

theorem test_decode_palExport : reads 0x23 0 0x2300000000000000 [] .palExport = true := by decide

theorem test_decode_palImport : reads 0x24 3 0x2400000000000000 [1, 2, 3] (.palImport [1, 2, 3]) = true := by decide

theorem test_decode_tileNew : reads 0x30 0 0x3000000000000000 [] .tileNew = true := by decide

theorem test_decode_tileGetpx : reads 0x31 0 0x3100000000040300 [] (.tileGetpx 3 4) = true := by decide

theorem test_decode_tileSetpx : reads 0x32 0 0x3200000000040309 [] (.tileSetpx 3 4 9) = true := by decide

theorem test_decode_tileEnc : reads 0x33 0 0x3300000000000000 [] .tileEnc = true := by decide

theorem test_decode_tileDec : reads 0x34 32 0x3400000000000000 blobT7 (.tileDec blobT7) = true := by decide

theorem test_decode_tmeNewA :
    reads 0x40 0 0x40000000050703FF [] (.tmeNewA 1023 7 true false true) = true := by decide

theorem test_decode_tmeNewB : reads 0x41 0 0x4100000006090005 [] (.tmeNewB 5 9 false true) = true := by decide

theorem test_decode_tmePackA : reads 0x42 0 0x42000000070501FF []
    (.tmePackA { tile := 511, pal := 5, h := true, v := true, prio := true }) = true := by decide

theorem test_decode_tmePackB : reads 0x43 0 0x4300000002030005 []
    (.tmePackB { tile := 5, pal := 3, h := false, v := true }) = true := by decide

theorem test_decode_tmeUnpackA : reads 0x44 0 0x440000000000A455 [] (.tmeUnpackA 0xA455) = true := by decide

theorem test_decode_tmeUnpackB : reads 0x45 0 0x450000000000A455 [] (.tmeUnpackB 0xA455) = true := by decide

theorem test_decode_tmeSettileA : reads 0x46 0 0x460007D001060005 []
    (.tmeSettileA { tile := 5, pal := 6, h := true, v := false, prio := false } 2000) = true := by decide

theorem test_decode_tmeSettileB : reads 0x47 0 0x470001FF02030005 []
    (.tmeSettileB { tile := 5, pal := 3, h := false, v := true } 511) = true := by decide

theorem test_decode_tmeSetpalA : reads 0x48 0 0x4800000901060005 []
    (.tmeSetpalA { tile := 5, pal := 6, h := true, v := false, prio := false } 9) = true := by decide

theorem test_decode_tmeSetpalB : reads 0x49 0 0x490000C802030005 []
    (.tmeSetpalB { tile := 5, pal := 3, h := false, v := true } 200) = true := by decide

theorem test_decode_tmNew : reads 0x50 0 0x5001000A000A0000 [] (.tmNew 10 10 .b) = true := by decide

theorem test_decode_tmFree : reads 0x51 0 0x5100000000000000 [] .tmFree = true := by decide

theorem test_decode_tmGet : reads 0x52 0 0x520000FF00000000 [] (.tmGet 0 255) = true := by decide

theorem test_decode_tmSet : reads 0x53 0 0x530000020002A455 [] (.tmSet 2 2 0xA455) = true := by decide

theorem test_decode_tmResize : reads 0x54 0 0x5400000300020000 [] (.tmResize 2 3) = true := by decide

theorem test_decode_tmClear : reads 0x55 0 0x5500000000000000 [] .tmClear = true := by decide

theorem test_decode_tmFill : reads 0x56 0 0x5600000000003805 [] (.tmFill 0x3805) = true := by decide

theorem test_decode_tmExport : reads 0x57 0 0x5700000000000000 [] .tmExport = true := by decide

theorem test_decode_tmImport :
    reads 0x58 2 0x5801000200020000 [0x34, 0x12] (.tmImport 2 2 .b [0x34, 0x12]) = true := by decide

/-- Vectors X-1 and X-7: reserved opcodes, and a TM opcode without the unit. -/
theorem test_decode_reserved :
    decode true (cmdOf 0x0000000000000000 []) = .error .unknownOpcode ∧
    decode true (cmdOf 0x5900000000000000 []) = .error .unknownOpcode ∧
    decode true (cmdOf 0xFF00000000000000 []) = .error .unknownOpcode ∧
    decode true (cmdOf 0x1500000000000000 []) = .error .unknownOpcode ∧
    decode true (cmdOf 0x4A00000000000000 []) = .error .unknownOpcode ∧
    decode false (cmdOf 0x5000000400040000 []) = .error .unknownOpcode := by decide

/-- Vectors X-2, T-14 and T-16: a fixed payload length missed. -/
theorem test_decode_badLength :
    decode true (cmdOf 0x1100000000010203 [0, 0, 0, 0]) = .error .badPayloadLength ∧
    decode true (cmdOf 0x3400000000000000 (List.replicate 31 0)) = .error .badPayloadLength ∧
    decode true (cmdOf 0x3300000000000000 [0]) = .error .badPayloadLength := by decide

/-- Encoding writes the words of 30_encoding.md section 6. -/
theorem test_encode :
    encode (.palSet 18 33 { r := 31, g := 16, b := 0 }) = cmdOf 0x22000012211F1000 [] ∧
    encode (.tmSet 2 2 0xA455) = cmdOf 0x530000020002A455 [] ∧
    encode (.tmImport 2 2 .b [0x34, 0x12]) = cmdOf 0x5801000200020000 [0x34, 0x12] ∧
    encode (.tmeSetpalB { tile := 5, pal := 3, h := false, v := true } 200) = cmdOf 0x490000C802030005 [] := by decide

/-! COL -/

/-- C-4. -/
theorem test_colNew_clamps : statRes (exec (.colNew 255 40 5) State.reset) = some (0, 0x1F1F05) := by decide

/-- C-11. -/
theorem test_colPack : statRes (exec (.colPack { r := 21, g := 10, b := 21 }) State.reset) = some (0, 0x5555) := by
  decide

/-- C-16. -/
theorem test_colUnpack : statRes (exec (.colUnpack 0xABCD) State.reset) = some (0, 0x0A1E0D) := by decide

/-- C-20. -/
theorem test_colTo8 : statRes (exec (.colTo8 { r := 4, g := 15, b := 30 }) State.reset) = some (0, 0x217BF7) := by decide

/-- C-24. -/
theorem test_colFrom8 : statRes (exec (.colFrom8 200 100 50) State.reset) = some (0, 0x190C06) := by decide

/-! PAL -/

/-- P-11. -/
theorem test_palNew : (left (exec .palNew pal33)).pal[33] = { r := 0, g := 0, b := 0 } := by decide +kernel

/-- P-2. -/
theorem test_palGet : statRes (exec (.palGet 2 1) pal33) = some (0, 0x1F1000) := by decide +kernel

/-- P-3 and P-4: both indices wrap. -/
theorem test_palSet_wraps :
    (left (exec (.palSet 255 255 { r := 1, g := 2, b := 3 }) State.reset)).pal[255] = { r := 1, g := 2, b := 3 } ∧
    (left (exec (.palSet 16 16 { r := 4, g := 5, b := 6 }) State.reset)).pal[0] = { r := 4, g := 5, b := 6 } := by
  decide +kernel

/-- P-5. -/
theorem test_palExport :
    ((payload (exec .palExport pal33)).drop 65).take 4 = [0x00, 0x00, 0x7E, 0x00] := by decide +kernel

/-- P-6: the first two colours. -/
theorem test_palImport :
    let t := left (exec (.palImport ([0x03, 0x0A, 0x11, 0x18] ++ List.replicate 508 0)) State.reset)
    t.pal[0] = { r := 2, g := 16, b := 3 } ∧ t.pal[1] = { r := 6, g := 0, b := 17 } := by decide +kernel

/-- P-9, P-10. -/
theorem test_palImport_length :
    statRes (exec (.palImport (List.replicate 511 0xFF)) pal33) = some (1, 0) ∧
    (left (exec (.palImport (List.replicate 513 0xFF)) pal33)).pal[33] = { r := 31, g := 16, b := 0 } := by
  decide +kernel

/-! TILE -/

/-- T-15. -/
theorem test_tileNew : (left (exec .tileNew tileT7)).pix = State.reset.pix := by decide +kernel

/-- PROG-2 steps 7 and 9. -/
theorem test_tileGetpx :
    statRes (exec (.tileGetpx 7 0) tileT7) = some (0, 5) ∧ statRes (exec (.tileGetpx 0 8) tileT7) = some (0, 0) := by
  decide +kernel

/-- T-5. -/
theorem test_tileSetpx_writes :
    ((left (exec (.tileSetpx 0 0 15) State.reset)).pix[0])[0] = 15 := by decide +kernel

/-- T-4 and T-6. -/
theorem test_tileSetpx_ignores :
    (left (exec (.tileSetpx 8 0 1) tileT7)).pix = tileT7.pix ∧ (left (exec (.tileSetpx 0 0 16) tileT7)).pix = tileT7.pix := by
  decide +kernel

/-- T-7. -/
theorem test_tileEnc : payload (exec .tileEnc tileT7) = blobT7 := by decide +kernel

/-- PROG-2 step 12. -/
theorem test_tileDec : (left (exec (.tileDec blobT7) State.reset)).pix = tileT7.pix := by decide +kernel

/-! TME -/

/-- E-2. -/
theorem test_tmeNewA : statRes (exec (.tmeNewA 2000 9 false true false) State.reset) = some (0, 0x020703FF) := by decide

/-- E-4. -/
theorem test_tmeNewB : statRes (exec (.tmeNewB 2000 16 true false) State.reset) = some (0, 0x010F03FF) := by decide

/-- E-8. -/
theorem test_tmePackA :
    statRes (exec (.tmePackA { tile := 511, pal := 5, h := true, v := true, prio := true }) State.reset) =
      some (0, 0xF5FF) := by decide

/-- E-11. -/
theorem test_tmePackB :
    statRes (exec (.tmePackB { tile := 511, pal := 9, h := true, v := false }) State.reset) = some (0, 0x95FF) := by
  decide

/-- E-12. -/
theorem test_tmeUnpackA : statRes (exec (.tmeUnpackA 0xA455) State.reset) = some (0, 0x05010055) := by decide

/-- E-12. -/
theorem test_tmeUnpackB : statRes (exec (.tmeUnpackB 0xA455) State.reset) = some (0, 0x010A0055) := by decide

/-- E-19. -/
theorem test_tmeSettileA :
    statRes (exec (.tmeSettileA { tile := 5, pal := 6, h := true, v := false, prio := false } 2000) State.reset) =
      some (0, 0x010603FF) := by decide

/-- E-19. -/
theorem test_tmeSettileB :
    statRes (exec (.tmeSettileB { tile := 5, pal := 3, h := false, v := true } 511) State.reset) =
      some (0, 0x020301FF) := by decide

/-- E-19. -/
theorem test_tmeSetpalA :
    statRes (exec (.tmeSetpalA { tile := 5, pal := 6, h := true, v := false, prio := false } 9) State.reset) =
      some (0, 0x01070005) := by decide

/-- E-19. -/
theorem test_tmeSetpalB :
    statRes (exec (.tmeSetpalB { tile := 5, pal := 3, h := false, v := true } 200) State.reset) =
      some (0, 0x020F0005) := by decide

/-! TM -/

/-- M-4: the axes clamp on their own. -/
theorem test_tmNew : let t := left (exec (.tmNew 0 300 .a) map22)
    t.tmValid = true ∧ t.tmRev = .a ∧ t.tmW = 1 ∧ t.tmH = 256 ∧ t.cells = List.replicate 256 0 := by decide +kernel

/-- M-20. -/
theorem test_tmFree : (left (exec .tmFree map22)).tmValid = false ∧ statRes (exec .tmFree State.reset) = some (0, 0) := by
  decide

/-- PROG-4 step 12, and M-18's `ABSENT`. -/
theorem test_tmGet :
    statRes (exec (.tmGet 0 1) map22) = some (0, 0xFFFF) ∧ statRes (exec (.tmGet 2 0) map22) = some (2, 0) := by decide

/-- M-19. -/
theorem test_tmGet_noMap : statRes (exec (.tmGet 0 0) State.reset) = some (4, 0) := by decide

/-- The cell of index y*TM_W + x, and M-6: `x = 2` does not spill into row 1. -/
theorem test_tmSet :
    (left (exec (.tmSet 1 0 0x95FF) map22)).cells = [0x3805, 0x95FF, 0xFFFF, 0xF000] ∧
    (left (exec (.tmSet 2 0 0xFFFF) map22)).cells = map22.cells := by decide

/-- M-8. -/
theorem test_tmResize :
    (left (exec (.tmResize 2 3) map32)).cells = [0x1100, 0x1101, 0x1110, 0x1111, 0, 0] := by decide +kernel

/-- M-10's rule on a small map: the size there is, after clamping. -/
theorem test_tmResize_same : (left (exec (.tmResize 2 2) map22)).cells = map22.cells := by decide

/-- M-11. -/
theorem test_tmClear : (left (exec .tmClear map22)).cells = [0, 0, 0, 0] := by decide

/-- M-11. -/
theorem test_tmFill : (left (exec (.tmFill 0x3805) map22)).cells = [0x3805, 0x3805, 0x3805, 0x3805] := by decide

/-- M-7. -/
theorem test_tmExport : payload (exec .tmExport map32) =
    [0x00, 0x11, 0x01, 0x11, 0x02, 0x11, 0x10, 0x11, 0x11, 0x11, 0x12, 0x11] := by decide

/-- M-13. -/
theorem test_tmImport :
    let t := left (exec (.tmImport 2 2 .b [0x05, 0x38, 0x00, 0x00, 0xFF, 0xFF, 0x00, 0xF0]) State.reset)
    t.tmValid = true ∧ t.tmRev = .b ∧ t.tmW = 2 ∧ t.tmH = 2 ∧ t.cells = [0x3805, 0x0000, 0xFFFF, 0xF000] := by decide

/-- M-14 and M-15: the length is compared with the clamped dimensions. -/
theorem test_tmImport_length :
    statRes (exec (.tmImport 2 2 .b [0, 0, 0, 0, 0, 0, 0]) State.reset) = some (1, 0) ∧
    (left (exec (.tmImport 0 0 .a [0x34, 0x12]) State.reset)).cells = [0x1234] := by decide

/-! The port -/

/-- X-3: the opcode and the fixed length are checked before the tilemap. -/
theorem test_badCmd_before_noMap :
    statRes (step (before State.reset (cmdOf 0x5900000000000000 []))) = some (3, 0) ∧
    statRes (step (before State.reset (cmdOf 0x5200000000000000 [0]))) = some (3, 0) := by decide

/-- X-7: without the unit a TM command completes `BADCMD`. -/
theorem test_badCmd_without_unit :
    statRes (step (before { State.reset with hasTmap := false } (cmdOf 0x5000000400040000 []))) = some (3, 0) := by decide

/-- X-5: the reset event. -/
theorem test_reset_event : left (step { map22 with stream := [.reset], response := okRes 7 }) = State.reset := rfl

/-- The host's two entry points run the row they are given. -/
theorem test_withFetchWord :
    statRes (step (State.reset.withFetchWord 64 0x1000000000646464)) = some (0, 0x1F1F1F) ∧
    decodeTableWord 64 0x3200000000040309 = some (.tileSetpx 3 4 9) ∧
    decodeTableWord 64 0x3400000000000000 = some (.tileDec (List.replicate 32 0)) ∧
    decodeTableWord 64 0x5900000000000000 = none := by decide +kernel

/-! Concrete cases that meet the hypotheses of the obligations, clause by clause -/

/-- The two maps are maps the machine can hold, so is the state with none. -/
theorem test_meets_TilemapOk :
    TilemapOk map22 ∧ TilemapOk map32 ∧ TilemapOk State.reset ∧ map22.tmValid = true ∧ map32.tmValid = true ∧
      State.reset.tmValid = false := by decide

/-- DecodesTo, for each row: a command with the row's opcode and an accepted payload length. -/
theorem test_meets_DecodesTo : ∀ o ∈ Opcode.all,
    opc (tableCommand 64 (o.code.toNat * 2 ^ 56)).cmd = o.code.toNat ∧
      o.acceptsPlen (tableCommand 64 (o.code.toNat * 2 ^ 56)).plen = true := by decide +kernel

/-- PalImportNeedsExactly512Bytes and PaletteBlobRoundTrips: payloads of 511, 512 and 513 bytes. -/
theorem test_meets_PalImport :
    (List.replicate 511 (0 : Byte)).length ≠ 512 ∧ (List.replicate 512 (0 : Byte)).length = 512 ∧
      (List.replicate 513 (0 : Byte)).length ≠ 512 := by decide +kernel

/-- PalReadAfterWrite: a completed write, read back through another name of the cell and in another cell. -/
theorem test_meets_PalReadAfterWrite :
    (∃ t, exec (.palSet 18 33 { r := 31, g := 16, b := 0 }) State.reset = .next t) ∧
    ((2 : Byte).toNat % 16 = (18 : Byte).toNat % 16 ∧ (1 : Byte).toNat % 16 = (33 : Byte).toNat % 16) ∧
    ¬ ((15 : Byte).toNat % 16 = (18 : Byte).toNat % 16) := ⟨⟨_, rfl⟩, by decide, by decide⟩

/-- TileGetpxReadsOrGivesZero: the last pixel, and the first coordinate outside. -/
theorem test_meets_TileGetpx :
    (7 : Byte).toNat = (7 : Fin 8).val ∧ (8 ≤ (8 : Byte).toNat ∨ 8 ≤ (0 : Byte).toNat) := by decide

/-- TileDecGathersPlanes and TileBlobRoundTrips: 31, 32 and 33 bytes. -/
theorem test_meets_TileDec :
    (List.replicate 31 (0 : Byte)).length ≠ 32 ∧ blobT7.length = 32 ∧ (List.replicate 33 (0 : Byte)).length ≠ 32 := by
  decide

/-- TileReadAfterWrite: a write in range, two that are ignored, and a read elsewhere. -/
theorem test_meets_TileReadAfterWrite :
    (∃ t, exec (.tileSetpx 7 7 15) State.reset = .next t) ∧ (∃ t, exec (.tileSetpx 8 0 1) State.reset = .next t) ∧
    (∃ t, exec (.tileSetpx 0 0 16) State.reset = .next t) ∧ (7 : Byte).toNat < 8 ∧ (15 : Byte).toNat ≤ 15 ∧
    ¬ (16 : Byte).toNat ≤ 15 ∧ (6 : Byte) ≠ 7 := ⟨⟨_, rfl⟩, ⟨_, rfl⟩, ⟨_, rfl⟩, by decide⟩

/-- TmGetReadsCellOrAbsent and TmSetWritesOneCellOrNone: the last cell, and the first place outside on each axis. -/
theorem test_meets_TmGet :
    ((1 : Half).toNat < map22.tmW.toNat ∧ (1 : Half).toNat < map22.tmH.toNat) ∧
    (map22.tmW.toNat ≤ (2 : Half).toNat ∨ map22.tmH.toNat ≤ (0 : Half).toNat) ∧
    (map22.tmW.toNat ≤ (0 : Half).toNat ∨ map22.tmH.toNat ≤ (2 : Half).toNat) := by decide

/-- TmResizeKeepsCommonCells: the size there is, and a size that shrinks one axis and grows the other. -/
theorem test_meets_TmResize :
    (dim 3 = map32.tmW.toNat ∧ dim 2 = map32.tmH.toNat) ∧ ¬ (dim 2 = map32.tmW.toNat ∧ dim 3 = map32.tmH.toNat) := by
  decide

/-- TmImportNeedsExactLength and TilemapBlobRoundTrips: 7, 8 and 9 bytes for a 2 by 2 map, and the dimensions of a
map that is there. -/
theorem test_meets_TmImport :
    (List.replicate 7 (0 : Byte)).length ≠ dim 2 * dim 2 * 2 ∧ (List.replicate 8 (0 : Byte)).length = dim 2 * dim 2 * 2 ∧
    (List.replicate 9 (0 : Byte)).length ≠ dim 2 * dim 2 * 2 ∧
    (2 : Half).toNat = map22.tmW.toNat ∧ (2 : Half).toNat = map22.tmH.toNat := by decide

/-- TmReadAfterWrite: a write to the last cell of a map, read back there and at the first cell. -/
theorem test_meets_TmReadAfterWrite :
    TilemapOk map22 ∧ map22.tmValid = true ∧ (1 : Half).toNat < map22.tmW.toNat ∧ (1 : Half).toNat < map22.tmH.toNat ∧
    (∃ t, exec (.tmSet 1 1 0x95FF) map22 = .next t) ∧ ¬ ((0 : Half) = 1) :=
  ⟨by decide, rfl, by decide, by decide, ⟨_, rfl⟩, by decide⟩

/-- TmReadAfterResize: 3 by 2 becomes 2 by 3; a kept cell, a new one, and a place outside. -/
theorem test_meets_TmReadAfterResize :
    TilemapOk map32 ∧ map32.tmValid = true ∧ (∃ t, exec (.tmResize 2 3) map32 = .next t) ∧
    ((1 : Half).toNat < dim 2 ∧ (1 : Half).toNat < dim 3 ∧ (1 : Half).toNat < map32.tmW.toNat ∧
      (1 : Half).toNat < map32.tmH.toNat) ∧
    ((0 : Half).toNat < dim 2 ∧ (2 : Half).toNat < dim 3 ∧ map32.tmH.toNat ≤ (2 : Half).toNat) ∧
    dim 2 ≤ (2 : Half).toNat := ⟨by decide, rfl, ⟨_, rfl⟩, by decide, by decide, by decide⟩

/-- StepRunsDecodedInstruction: nothing presented, and a command that decodes. -/
theorem test_meets_StepRuns : State.reset.stream = [] ∧
    (before map22 (cmdOf 0x5500000000000000 [])).stream = .command (cmdOf 0x5500000000000000 []) :: [] ∧
    (cmdOf 0x5500000000000000 []).plen.toNat = (cmdOf 0x5500000000000000 []).pin.length ∧
    decode true (cmdOf 0x5500000000000000 []) = .ok .tmClear := by decide

/-- MalformedCommandCompletesBadcmd: both ends of each reserved range, the absent unit, the two length rules. -/
theorem test_meets_Malformed :
    (∀ op ∈ [0x00, 0x0F, 0x15, 0x1F, 0x25, 0x2F, 0x35, 0x3F, 0x4A, 0x4F, 0x59, 0xFF],
      Malformed true (cmdOf (op * 2 ^ 56) [])) ∧
    (∀ op ∈ [0x50, 0x58], Malformed false (cmdOf (op * 2 ^ 56) [])) ∧
    Malformed true (cmdOf 0x3400000000000000 (List.replicate 31 0)) ∧
    Malformed true (cmdOf 0x5700000000000000 [0]) :=
  ⟨by decide, by decide, by decide, by decide⟩

/-- EveryOtherCommandDecodes: the first and the last opcode, without and with a payload. -/
theorem test_meets_EveryOther :
    ¬ Malformed true (cmdOf 0x1000000000000000 []) ∧ ¬ Malformed true (cmdOf 0x5800000000000000 [0, 0]) ∧
    ¬ Malformed false (cmdOf 0x4900000000000000 []) ∧ ¬ Malformed true (cmdOf 0x3400000000000000 blobT7) :=
  ⟨by decide, by decide, by decide, by decide⟩

/-- UnreadBitsAreIgnored: vector P-13, the colour lanes of a palette read. -/
theorem test_meets_UnreadBits :
    opc (cmdOf 0x21000002011F1F1F []).cmd = opc (cmdOf 0x2100000201000000 []).cmd ∧
    (cmdOf 0x21000002011F1F1F []).cmd &&& readMask 0x21 = (cmdOf 0x2100000201000000 []).cmd &&& readMask 0x21 := by
  decide

/-- DecodeOfEncodeIsIdentity and CompletionCodesOfEachCommand: commands that can be presented. -/
theorem test_meets_wellFormed :
    (Instr.tileDec blobT7).wellFormed = true ∧ (Instr.palImport []).wellFormed = true ∧
    (Instr.tmImport 2 2 .b [0, 0]).wellFormed = true ∧ (Instr.tmGet 65535 65535).wellFormed = true := by decide

/-- FirstResponsesAfterReset: the six commands that need a tilemap. -/
theorem test_meets_needsTilemap :
    needsTilemap (.tmGet 0 0) = true ∧ needsTilemap (.tmSet 0 0 1) = true ∧ needsTilemap (.tmResize 2 2) = true ∧
    needsTilemap .tmClear = true ∧ needsTilemap (.tmFill 1) = true ∧ needsTilemap .tmExport = true ∧
    needsTilemap (.tmImport 2 2 .a []) = false := by decide

/-- ResetEventRestoresBlock: a reset presented to a block that holds something. -/
theorem test_meets_ResetEvent : ({ map22 with stream := [.reset] } : State).stream = .reset :: [] := rfl

/-- StepKeepsTilemapOk and EveryPresentedCommandCompletes: a stream with work in it. -/
theorem test_meets_stream :
    TilemapOk (before map22 (cmdOf 0x5400000300020000 [])) ∧ StreamOk (before map22 (cmdOf 0x5400000300020000 [])) ∧
    (∃ t, step (before map22 (cmdOf 0x5400000300020000 [])) = .next t) := ⟨by decide, by decide, ⟨_, rfl⟩⟩

/-- FailedCommandLeavesNoTrace: a failed import in front of another command. -/
theorem test_meets_Failed : statRes (step { map22 with
    stream := [.command (cmdOf 0x5801000200020000 [0]), .command (cmdOf 0x5200000000000000 [])] }) = some (1, 0) := by
  decide

/-- ResponseOfEveryCommand: a triple that is a command, one that completes `OK` and one that does not. -/
theorem test_meets_ResponseOfEvery :
    (cmdOf 0x5801000200020000 [0]).plen.toNat = (cmdOf 0x5801000200020000 [0]).pin.length ∧
    statRes (runCommand (cmdOf 0x5801000200020000 [0]) map22) = some (1, 0) ∧
    statRes (runCommand (cmdOf 0x5200000100000000 []) map22) = some (0, 0xFFFF) := by decide

/-- ReadsHaveNoSideEffect: a command of each kind. -/
theorem test_meets_onlyReads :
    onlyReads (.palGet 0 0) = true ∧ onlyReads .tmExport = true ∧ onlyReads (.colUnpack 0) = true ∧
    onlyReads (.tmeNewB 0 0 false false) = true ∧ onlyReads (.tmSet 0 0 0) = false := by decide

/-- FamiliesReadOnlyTheirStore: one command of each family, on two states that share that family's store only. -/
theorem test_meets_Families :
    (family (.colUnpack 0) = 1 ∧ family (.tmeUnpackA 0) = 4) ∧ (family .palExport = 2 ∧ map22.pal = tileT7.pal) ∧
    (family .tileEnc = 3 ∧ pal33.pix = map22.pix) ∧
    (family .tmClear = 5 ∧ SameTilemap map22 { map22 with pal := pal33.pal }) ∧
    (∃ t, exec .palExport tileT7 = .next t) := ⟨by decide, ⟨by decide, rfl⟩, ⟨by decide, rfl⟩, by decide, ⟨_, rfl⟩⟩

/-- HiddenRegistersAreUnobservable: two states that differ in registers of a tilemap that is not there. -/
theorem test_meets_SameBlock :
    SameBlock State.reset { State.reset with tmRev := .b, tmW := 7, tmH := 300, cells := [1], response := okRes 1 } :=
  ⟨rfl, rfl, rfl, by decide, rfl⟩

end Sys2Proof.Tests
end

/-! PROOF. The tilemap invariant of 10_state.md R29 is kept by every step: the states a command can leave meet it, so
every command answers a state that meets it, so every event of the host's stream does. -/

namespace Sys2Proof.Proofs.TilemapInvariant

open Sys2Proof Sys2Proof.Machine

/-! The states a command can leave -/

/-- The idea of R29: clamped dimensions are in range, whatever was asked for. -/
theorem tilemapOk_of_clampDim {u : State} (width height : Half) (hw : u.tmW = clampDim width)
    (hh : u.tmH = clampDim height)
    (hlen : u.cells.length = (clampDim width).toNat * (clampDim height).toNat) : TilemapOk u := by
  intro _
  rw [hw, hh]
  exact ⟨clampDim_bounds width, clampDim_bounds height, hlen⟩

theorem tilemapOk_installMap (s : State) (rev : Revision) (width height : Half) {cells : List Half}
    (hlen : cells.length = (clampDim width).toNat * (clampDim height).toNat) :
    TilemapOk (installMap s rev (clampDim width) (clampDim height) cells) :=
  tilemapOk_of_clampDim width height rfl rfl hlen

theorem tilemapOk_resized (s : State) (width height : Half) :
    TilemapOk { s with
      tmW := clampDim width, tmH := clampDim height,
      cells := resizedCells s (clampDim width).toNat (clampDim height).toNat } :=
  tilemapOk_of_clampDim width height rfl rfl (resizedCells_length ..)

/-- Without a tilemap there is nothing to meet. -/
theorem tilemapOk_of_none {u : State} (h : u.tmValid = false) : TilemapOk u := by simp [TilemapOk, h]

/-- New contents in a grid of the same size. -/
theorem tilemapOk_withCells {s : State} (hs : TilemapOk s) {cells : List Half}
    (hlen : cells.length = s.tmW.toNat * s.tmH.toNat) : TilemapOk { s with cells := cells } := by
  intro hv
  obtain ⟨hw, hh, _⟩ := hs hv
  exact ⟨hw, hh, hlen⟩

theorem tilemapOk_writeCell {s : State} (hs : TilemapOk s) (i : Nat) (w : Half) : TilemapOk (writeCell s i w) := by
  simpa [TilemapOk] using hs

theorem tilemapOk_withPal {s : State} (hs : TilemapOk s) (pal : Vector Color 256) :
    TilemapOk { s with pal := pal } := hs

theorem tilemapOk_withPix {s : State} (hs : TilemapOk s) (pix : Vector (Vector (BitVec 4) 8) 8) :
    TilemapOk { s with pix := pix } := hs

/-! The outcomes of a command -/

/-- The next state of an outcome, if it has one, meets the invariant. -/
def OutcomeOk (o : Host.Outcome State Fault Refusal) : Prop := ∀ t : State, o = .next t → TilemapOk t

theorem outcomeOk_next {t : State} (ht : TilemapOk t) : OutcomeOk (.next t) := by
  rintro _ ⟨⟩
  exact ht

/-- Completing a command writes the response only, so every way to complete keeps the invariant. -/
theorem outcomeOk_complete {u : State} (hu : TilemapOk u) {code : Stat} {res : BitVec 64} {pout : List Byte} :
    OutcomeOk (complete u code res pout) := outcomeOk_next hu

theorem outcomeOk_needMap {s : State} (hs : TilemapOk s) {act : Host.Outcome State Fault Refusal}
    (hact : OutcomeOk act) : OutcomeOk (needMap s act) := by
  cases hv : s.tmValid
  · rw [needMap_of_none hv]
    exact outcomeOk_complete hs
  · rwa [needMap_of_valid hv]

theorem outcomeOk_ite {p : Prop} [Decidable p] {a b : Host.Outcome State Fault Refusal} (ha : OutcomeOk a)
    (hb : OutcomeOk b) : OutcomeOk (if p then a else b) := by
  split
  · exact ha
  · exact hb

/-- Every command keeps the invariant: each one that writes a store by the lemma on the state it leaves, every other
one because it writes the response only. -/
theorem exec_keeps_tilemapOk (i : Instr) {s : State} (hs : TilemapOk s) : OutcomeOk (exec i s) := by
  cases i with
  | tmNew width height rev =>
    exact outcomeOk_complete (tilemapOk_installMap s rev width height (by simp))
  | tmFree => exact outcomeOk_complete (tilemapOk_of_none (freeMap_tmValid s))
  | tmGet x y => exact outcomeOk_needMap hs (outcomeOk_ite (outcomeOk_complete hs) (outcomeOk_complete hs))
  | tmSet x y w =>
    exact outcomeOk_needMap hs
      (outcomeOk_ite (outcomeOk_complete (tilemapOk_writeCell hs _ _)) (outcomeOk_complete hs))
  | tmResize width height =>
    exact outcomeOk_needMap hs
      (outcomeOk_ite (outcomeOk_complete hs) (outcomeOk_complete (tilemapOk_resized s width height)))
  | tmClear => exact outcomeOk_needMap hs (outcomeOk_complete (tilemapOk_withCells hs (by simp)))
  | tmFill w => exact outcomeOk_needMap hs (outcomeOk_complete (tilemapOk_withCells hs (by simp)))
  | tmExport => exact outcomeOk_needMap hs (outcomeOk_complete hs)
  | tmImport width height rev pin =>
    exact outcomeOk_ite (outcomeOk_complete (tilemapOk_installMap s rev width height (by simp)))
      (outcomeOk_complete hs)
  | palNew => exact outcomeOk_complete (tilemapOk_withPal hs _)
  | palSet sp ci c => exact outcomeOk_complete (tilemapOk_withPal hs _)
  | palImport pin =>
    exact outcomeOk_ite (outcomeOk_complete (tilemapOk_withPal hs _)) (outcomeOk_complete hs)
  | tileNew => exact outcomeOk_complete (tilemapOk_withPix hs _)
  | tileDec pin =>
    exact outcomeOk_ite (outcomeOk_complete (tilemapOk_withPix hs _)) (outcomeOk_complete hs)
  | tileGetpx x y =>
    simp only [exec, execTileGetpx]
    split <;> exact outcomeOk_complete hs
  | tileSetpx x y c =>
    simp only [exec, execTileSetpx]
    split
    · exact outcomeOk_complete (tilemapOk_withPix hs _)
    · exact outcomeOk_complete hs
  | _ => exact outcomeOk_complete hs

/-! The events of the host's stream -/

theorem runCommand_keeps_tilemapOk (c : Command) {s : State} (hs : TilemapOk s) : OutcomeOk (runCommand c s) := by
  obtain ⟨_, i, _, hrun⟩ | ⟨_, _, _, hrun⟩ | ⟨_, hrun⟩ := runCommand_cases c s <;> rw [hrun]
  · exact exec_keeps_tilemapOk i hs
  · exact outcomeOk_complete hs
  · nofun

theorem runEvent_keeps_tilemapOk (e : PortEvent) {s : State} (hs : TilemapOk s) : OutcomeOk (runEvent e s) := by
  cases e with
  | command c => exact runCommand_keeps_tilemapOk c hs
  | reset => exact outcomeOk_next (tilemapOk_of_none (resetBlock_tmValid s))

theorem step_keeps_tilemapOk {s : State} (hs : TilemapOk s) : OutcomeOk (step s) := by
  cases hq : s.stream with
  | nil =>
    rw [step, runNext_nil hq]
    exact outcomeOk_next hs
  | cons e rest =>
    rw [step, runNext_cons hq]
    exact runEvent_keeps_tilemapOk e hs

/-- Settles O51: no event of the host's stream breaks the tilemap invariant (10_state.md R29). -/
theorem stepKeepsTilemapOk : Obligations.StepKeepsTilemapOk :=
  fun _ t hs hstep => step_keeps_tilemapOk hs t hstep

end Sys2Proof.Proofs.TilemapInvariant

/-! PROOF. What every command leaves behind (30_encoding.md R84): it completes `OK` with a payload whose length fits
`RLEN`, or it raises a code on the state it was given. -/

namespace Sys2Proof.Proofs.Responses

open Sys2Proof Sys2Proof.Machine Sys2Proof.Statement

/-! Payload lengths -/

theorem planarBlob_length (s : State) : (planarBlob s).length = 32 := by
  simp [planarBlob, List.length_flatMap]

/-- Both dimension registers have nine bits, so the tilemap blob is far below the range of `RLEN`, whether the
state meets the tilemap invariant or not. -/
theorem exportCells_length_lt (s : State) : (exportCells s).length < 2 ^ 32 := by
  have harea : s.tmW.toNat * s.tmH.toNat < 2 ^ 9 * 2 ^ 9 := Nat.mul_lt_mul'' s.tmW.isLt s.tmH.isLt
  rw [exportCells_length]
  omega

/-! The two ways to complete -/

/-- The outcomes of a command on `s`: it completes `OK`, from any state, with a payload that `RLEN` can count, or it
raises a code and leaves `s` as it was. -/
inductive SucceedsOrRaises (s : State) : Host.Outcome State Fault Refusal → Prop where
  | succeeds (u : State) (res : BitVec 64) (pout : List Byte) (hlen : pout.length < 2 ^ 32) :
      SucceedsOrRaises s (complete u .ok res pout)
  | raises (code : Stat) : SucceedsOrRaises s (raise s code)

namespace SucceedsOrRaises

variable {s : State}

theorem of_succeed (u : State) (res : BitVec 64) : SucceedsOrRaises s (succeed u res) :=
  succeeds u res [] (by simp)

theorem of_succeedWith (u : State) {pout : List Byte} (hlen : pout.length < 2 ^ 32) :
    SucceedsOrRaises s (succeedWith u pout) := succeeds u 0 pout hlen

theorem of_ite {p : Prop} [Decidable p] {a b : Host.Outcome State Fault Refusal} (ha : SucceedsOrRaises s a)
    (hb : SucceedsOrRaises s b) : SucceedsOrRaises s (if p then a else b) := by
  split
  · exact ha
  · exact hb

theorem of_needMap {act : Host.Outcome State Fault Refusal} (hact : SucceedsOrRaises s act) :
    SucceedsOrRaises s (needMap s act) := of_ite hact (raises _)

end SucceedsOrRaises

open SucceedsOrRaises

/-- Every instruction completes in one of the two ways: the gate and the length checks raise, every other path
succeeds. -/
theorem exec_succeedsOrRaises (i : Instr) (s : State) : SucceedsOrRaises s (exec i s) := by
  cases i with
  | palExport => exact of_succeedWith s (by rw [exportPal_length]; decide)
  | tileEnc => exact of_succeedWith s (by rw [planarBlob_length]; decide)
  | tmExport => exact of_needMap (of_succeedWith s (exportCells_length_lt s))
  | palImport pin => exact of_ite (of_succeed _ _) (raises _)
  | tileDec pin => exact of_ite (of_succeed _ _) (raises _)
  | tmImport width height rev pin => exact of_ite (of_succeed _ _) (raises _)
  | tmGet x y => exact of_needMap (of_ite (of_succeed _ _) (raises _))
  | tmSet x y w => exact of_needMap (of_ite (of_succeed _ _) (of_succeed _ _))
  | tmResize width height => exact of_needMap (of_ite (of_succeed _ _) (of_succeed _ _))
  | tmClear => exact of_needMap (of_succeed _ _)
  | tmFill w => exact of_needMap (of_succeed _ _)
  | tileGetpx x y =>
    simp only [exec, execTileGetpx]
    split <;> exact of_succeed _ _
  | tileSetpx x y c =>
    simp only [exec, execTileSetpx]
    split <;> exact of_succeed _ _
  | _ => exact of_succeed _ _

theorem runCommand_succeedsOrRaises {c : Command} {s : State} (hc : c.wellFormed = true) :
    SucceedsOrRaises s (runCommand c s) := by
  obtain ⟨_, i, _, hrun⟩ | ⟨_, _, _, hrun⟩ | ⟨hnot, _⟩ := runCommand_cases c s
  · rw [hrun]
    exact exec_succeedsOrRaises i s
  · rw [hrun]
    exact raises _
  · simp [hc] at hnot

theorem wellFormed_of_length {c : Command} (hlen : c.plen.toNat = c.pin.length) : c.wellFormed = true := by
  simp [Command.wellFormed, hlen]

/-! The statement -/

/-- Codes 5 to 7 are never produced (60_exceptions.md R240). -/
theorem stat_code_le_four (code : Stat) : code.code.toNat ≤ 4 := by cases code <;> decide

/-- Settles O53: a command that succeeds has the code `OK` and a payload `RLEN` counts; a code that is raised comes
with the state as it was (30_encoding.md R84). -/
theorem responseOfEveryCommand : Obligations.ResponseOfEveryCommand := by
  intro c s hlen
  have hrun := runCommand_succeedsOrRaises (s := s) (wellFormed_of_length hlen)
  generalize runCommand c s = out at hrun
  cases hrun with
  | succeeds u res pout hpout =>
    exact ⟨_, _, complete_eq .., rfl, stat_code_le_four _, (BitVec.toNat_ofNat ..).trans (Nat.mod_eq_of_lt hpout),
      fun hcode => absurd rfl hcode⟩
  | raises code =>
    exact ⟨_, _, raise_eq .., rfl, stat_code_le_four _, rfl, fun _ => ⟨rfl, rfl, rfl⟩⟩

end Sys2Proof.Proofs.Responses

/-! PROOF. The decoder's two checks against 30_encoding.md R87 and R88 said by number: a command is refused exactly
when it is malformed, and what it otherwise decodes to can be presented. -/

namespace Sys2Proof.Proofs.MalformedCommands

open Sys2Proof Sys2Proof.Machine Sys2Proof.Statement

/-! The opcode by number -/

/-- The opcode byte as a number is the word divided by `2^56`. -/
theorem opcodeField_toNat (cmd : BitVec 64) : (opcodeField cmd).toNat = opc cmd := by
  have hlt := cmd.isLt
  rw [opcodeField, field, BitVec.extractLsb'_toNat, opc, Nat.shiftRight_eq_div_pow]
  omega

theorem opc_eq_code {cmd : BitVec 64} {o : Opcode} (ho : opcodeOf (opcodeField cmd) = some o) :
    opc cmd = o.code.toNat := by
  rw [code_of_opcodeOf ho, opcodeField_toNat]

/-- The number of an opcode byte of no row is no row's. -/
theorem code_ne_opc_of_opcodeOf_none {cmd : BitVec 64} (hnone : opcodeOf (opcodeField cmd) = none) :
    ∀ o ∈ Opcode.all, o.code.toNat ≠ opc cmd := by
  intro o ho heq
  rw [← opcodeField_toNat] at heq
  exact List.find?_eq_none.mp hnone o ho (beq_iff_eq.mpr (BitVec.eq_of_toNat_eq heq))

/-! Malformed commands -/

/-- An opcode byte of no row lies in one of the reserved ranges (30_encoding.md R88). -/
theorem malformed_of_opcodeOf_none {hasTmap : Bool} {c : Command} (hnone : opcodeOf (opcodeField c.cmd) = none) :
    Malformed hasTmap c := by
  have hne := code_ne_opc_of_opcodeOf_none hnone
  simp only [Opcode.all, List.cons_append, List.nil_append, List.forall_mem_cons, Opcode.code,
    BitVec.reduceToNat] at hne
  omega

/-- With a row of the table, what is left to go wrong is the absent unit or the payload length. -/
theorem malformed_iff_of_opcodeOf_some {hasTmap : Bool} {c : Command} {o : Opcode}
    (ho : opcodeOf (opcodeField c.cmd) = some o) :
    Malformed hasTmap c ↔ (o.isTmap && !hasTmap) = true ∨ o.acceptsPlen c.plen = false := by
  rw [Malformed, opc_eq_code ho]
  cases o <;> simp [Opcode.code, Opcode.isTmap, Opcode.acceptsPlen, Opcode.payloadIn]

theorem decode_of_opcodeOf_none {hasTmap : Bool} {c : Command} (hnone : opcodeOf (opcodeField c.cmd) = none) :
    decode hasTmap c = .error .unknownOpcode := by
  simp only [decode, hnone]

theorem decode_of_opcodeOf_some {hasTmap : Bool} {c : Command} {o : Opcode}
    (ho : opcodeOf (opcodeField c.cmd) = some o) :
    decode hasTmap c =
      if o.isTmap && !hasTmap then .error .unknownOpcode
      else if o.acceptsPlen c.plen then .ok (assemble o c.cmd c.pin)
      else .error .badPayloadLength := by
  simp only [decode, ho]

/-- The decoder refuses a malformed command; any other it assembles from a row that accepts its length. -/
theorem decode_cases (hasTmap : Bool) (c : Command) :
    (Malformed hasTmap c ∧ ∃ e, decode hasTmap c = .error e) ∨
    (¬ Malformed hasTmap c ∧ ∃ o : Opcode, o.acceptsPlen c.plen = true ∧
      decode hasTmap c = .ok (assemble o c.cmd c.pin)) := by
  cases ho : opcodeOf (opcodeField c.cmd) with
  | none => exact .inl ⟨malformed_of_opcodeOf_none ho, _, decode_of_opcodeOf_none ho⟩
  | some o =>
    rw [malformed_iff_of_opcodeOf_some ho, decode_of_opcodeOf_some ho]
    cases o.isTmap && !hasTmap
    · cases hacc : o.acceptsPlen c.plen
      · simp
      · exact .inr ⟨by simp, o, hacc, by simp⟩
    · simp

/-- What a row assembles from a payload of a length it accepts can be presented. -/
theorem assemble_wellFormed {o : Opcode} {c : Command} (hlen : c.plen.toNat = c.pin.length)
    (hacc : o.acceptsPlen c.plen = true) : (assemble o c.cmd c.pin).wellFormed = true := by
  have hlt : c.pin.length < 2 ^ 32 := hlen ▸ c.plen.isLt
  cases o with
  | tileDec => simpa [assemble, Instr.wellFormed, Opcode.acceptsPlen, Opcode.payloadIn, hlen] using hacc
  | palImport => exact decide_eq_true hlt
  | tmImport => exact decide_eq_true hlt
  | _ => rfl

/-- Settles O43: the port raises `BADCMD` on the state it was given wherever the decoder refuses
(30_encoding.md R88). -/
theorem malformedCommandCompletesBadcmd : Obligations.MalformedCommandCompletesBadcmd := by
  intro c s hlen hmal
  obtain ⟨_, e, hdec⟩ | ⟨hnot, _⟩ := decode_cases s.hasTmap c
  · simp only [runCommand, Responses.wellFormed_of_length hlen, hdec, if_true]
    exact raise_eq s .badCmd
  · exact absurd hmal hnot

/-- Settles O44: the decoder accepts what is not malformed, and only that (30_encoding.md R87). -/
theorem everyOtherCommandDecodes : Obligations.EveryOtherCommandDecodes := by
  intro hasTmap c hlen
  obtain ⟨hmal, e, hdec⟩ | ⟨hnot, o, hacc, hdec⟩ := decode_cases hasTmap c
  · simp [hdec, hmal]
  · exact iff_of_true ⟨_, hdec, assemble_wellFormed hlen hacc⟩ hnot

end Sys2Proof.Proofs.MalformedCommands

/-! PROOF. The bits of the command word a rule does not read (30_encoding.md R83): masking them off changes no operand,
so two words that agree under the mask assemble to the same instruction. -/

namespace Sys2Proof.Proofs.UnreadBits

open Sys2Proof Sys2Proof.Machine Sys2Proof.Statement Sys2Proof.Proofs.MalformedCommands

theorem field_and (a b : BitVec 64) (lo n : Nat) : field (a &&& b) lo n = field a lo n &&& field b lo n := by
  apply BitVec.eq_of_getLsbD_eq
  intro i hi
  simp [field, hi]

/-- A field survives a mask that is all ones there. -/
theorem field_and_mask {m : BitVec 64} {lo n : Nat} (hm : field m lo n = BitVec.allOnes n) (cmd : BitVec 64) :
    field (cmd &&& m) lo n = field cmd lo n := by
  rw [field_and, hm, BitVec.and_allOnes]

theorem flagField_and_mask {m : BitVec 64} {i : Nat} (hm : flagField m i = true) (cmd : BitVec 64) :
    flagField (cmd &&& m) i = flagField cmd i := by
  rw [flagField, BitVec.getLsbD_and, ← flagField, ← flagField, hm, Bool.and_true]

/-- Each row's mask is all ones on each field the row reads. -/
theorem assemble_and_readMask (o : Opcode) (cmd : BitVec 64) (pin : List Byte) :
    assemble o (cmd &&& readMask o.code.toNat) pin = assemble o cmd pin := by
  cases o <;> simp (disch := decide) only [assemble, colorField, entryAField, entryBField, revField,
    field_and_mask, flagField_and_mask]

/-- Settles O45: the opcode and the lengths are the same, and the operands are read through the row's mask
(30_encoding.md R83). -/
theorem unreadBitsAreIgnored : Obligations.UnreadBitsAreIgnored := by
  intro hasTmap c d hopc hplen hpin hmask
  have hfield : opcodeField c.cmd = opcodeField d.cmd :=
    BitVec.eq_of_toNat_eq (by simpa only [opcodeField_toNat] using hopc)
  cases ho : opcodeOf (opcodeField c.cmd) with
  | none => rw [decode_of_opcodeOf_none ho, decode_of_opcodeOf_none (hfield ▸ ho)]
  | some o =>
    have hargs : assemble o c.cmd c.pin = assemble o d.cmd d.pin := by
      rw [← assemble_and_readMask o c.cmd, ← opc_eq_code ho, hmask, hpin, opc_eq_code ho,
        assemble_and_readMask]
    rw [decode_of_opcodeOf_some ho, decode_of_opcodeOf_some (hfield ▸ ho), hplen, hargs]

end Sys2Proof.Proofs.UnreadBits

/-! PROOF. A row of the opcode map met at the port (30_encoding.md R81, R86, R88): a command with the row's opcode and
an accepted payload length decodes to what the row assembles, each field being arithmetic on the word's number. -/

namespace Sys2Proof.Proofs.RowDecoding

open Sys2Proof Sys2Proof.Machine Sys2Proof.Statement Sys2Proof.Proofs.MalformedCommands

/-- The number of an opcode byte selects its row. -/
theorem opcodeOf_of_opc_eq_code {cmd : BitVec 64} {o : Opcode} (hopc : opc cmd = o.code.toNat) :
    opcodeOf (opcodeField cmd) = some o := by
  have hbyte : opcodeField cmd = o.code := BitVec.eq_of_toNat_eq (by rw [opcodeField_toNat, hopc])
  rw [hbyte, opcodeOf_code]

/-- The rows of the TMAP unit are those numbered from 0x50 (30_encoding.md R88). -/
theorem isTmap_iff (o : Opcode) : o.isTmap = true ↔ 0x50 ≤ o.code.toNat := by cases o <;> decide

/-- A command with the row's number and an accepted length passes both checks of the decoder
(60_exceptions.md R247). -/
theorem decodesTo_of_row (o : Opcode) {op : Nat} {len : Nat → Prop} {f : BitVec 64 → List Byte → Instr}
    (hop : o.code.toNat = op) (hacc : ∀ plen : BitVec 32, len plen.toNat → o.acceptsPlen plen = true)
    (hf : ∀ cmd pin, assemble o cmd pin = f cmd pin) : DecodesTo op len f := by
  intro hasTmap c hunit hopc hlen
  subst hop
  have hpresent : (o.isTmap && !hasTmap) = false := by
    obtain hbelow | rfl := hunit
    · rw [Bool.eq_false_iff.mpr (mt (isTmap_iff o).mp (Nat.not_le.mpr hbelow)), Bool.false_and]
    · rw [Bool.not_true, Bool.and_false]
  simp [decode_of_opcodeOf_some (opcodeOf_of_opc_eq_code hopc), hpresent, hacc c.plen hlen, hf]

/-- A row that takes no payload requires `PLEN = 0` (30_encoding.md R87). -/
theorem decodesTo_of_row_without_payload (o : Opcode) {op : Nat} {f : BitVec 64 → List Byte → Instr}
    (hop : o.code.toNat = op) (hnone : o.payloadIn = some 0) (hf : ∀ cmd pin, assemble o cmd pin = f cmd pin) :
    DecodesTo op (· = 0) f :=
  decodesTo_of_row o hop (fun plen hlen => by simp [Opcode.acceptsPlen, hnone, hlen]) hf

theorem field_eq_bits (cmd : BitVec 64) (lo n : Nat) : field cmd lo n = bits cmd lo n := by
  apply BitVec.eq_of_toNat_eq
  rw [field, BitVec.extractLsb'_toNat, Nat.shiftRight_eq_div_pow, bits, BitVec.toNat_ofNat]

end Sys2Proof.Proofs.RowDecoding

/-! PROOF. The COL family (40_color.md R121 to R125): each row's operands at their bit positions, and each command's
result word as the arithmetic of its rule. -/

namespace Sys2Proof.Proofs.ColorCommands

open Sys2Proof Sys2Proof.Machine Sys2Proof.Statement Sys2Proof.Proofs.RowDecoding

/-! Operands -/

theorem colorField_eq_bits (cmd : BitVec 64) :
    colorField cmd = { r := bits cmd 16 5, g := bits cmd 8 5, b := bits cmd 0 5 } := by
  simp only [colorField, field_eq_bits]

/-! Results -/

theorem succeed_eq_okRes (s : State) (res : BitVec 64) :
    succeed s res = .next { s with response := okRes res } := succeed_eq s res

theorem resColor_eq_lanes (c : Color) : resColor c = lanes c.r.toNat c.g.toNat c.b.toNat := by
  rw [lanes, ← resColor_toNat, BitVec.ofNat_toNat, BitVec.setWidth_eq]

theorem resChannels_eq_lanes (r8 g8 b8 : Byte) :
    resChannels r8 g8 b8 = lanes r8.toNat g8.toNat b8.toNat := by
  rw [lanes, ← resChannels_toNat, BitVec.ofNat_toNat, BitVec.setWidth_eq]

theorem resWord_packColor (c : Color) : resWord (packColor c) = BitVec.ofNat 64 (colorNumber c) := by
  rw [colorNumber, ← packColor_toNat, ← resWord_toNat, BitVec.ofNat_toNat, BitVec.setWidth_eq]

/-! The five commands -/

/-- Settles O1: each clamped channel is the smaller of the operand and 31 (40_color.md R121). -/
theorem colNewClampsEachChannel : Obligations.ColNewClampsEachChannel := by
  constructor
  · exact decodesTo_of_row_without_payload .colNew rfl rfl fun cmd _ => by simp only [assemble, field_eq_bits]
  · intro r8 g8 b8 s
    simp only [exec, execColNew, succeed_eq_okRes, resColor_eq_lanes, clampChannel_toNat]

/-- Settles O2: the colour word as a number (40_color.md R122). -/
theorem colPackBuildsFiveFiveFiveWord : Obligations.ColPackBuildsFiveFiveFiveWord := by
  constructor
  · exact decodesTo_of_row_without_payload .colPack rfl rfl fun cmd _ => by simp only [assemble, colorField_eq_bits]
  · intro c s
    simp only [exec, execColPack, succeed_eq_okRes, resWord_packColor]

/-- Settles O3: red is taken mod 32, which drops bit 15 (40_color.md R123). -/
theorem colUnpackIgnoresTopBit : Obligations.ColUnpackIgnoresTopBit := by
  constructor
  · exact decodesTo_of_row_without_payload .colUnpack rfl rfl fun cmd _ => by simp only [assemble, field_eq_bits]
  · intro w s
    simp only [exec, execColUnpack, succeed_eq_okRes, resColor_eq_lanes, unpackColor_eq, BitVec.toNat_ofNat,
      Nat.reducePow]

/-- Settles O4: replicating a channel's bits is the arithmetic of R124 (40_color.md). -/
theorem colTo8ReplicatesBits : Obligations.ColTo8ReplicatesBits := by
  constructor
  · exact decodesTo_of_row_without_payload .colTo8 rfl rfl fun cmd _ => by simp only [assemble, colorField_eq_bits]
  · intro c s
    simp only [exec, execColTo8, succeed_eq_okRes, resChannels_eq_lanes, expand8_toNat]

/-- Settles O5: the shift of an unsigned channel is the floor of its eighth (40_color.md R125, 90_conflicts.md C6). -/
theorem colFrom8ShiftsRight : Obligations.ColFrom8ShiftsRight := by
  constructor
  · exact decodesTo_of_row_without_payload .colFrom8 rfl rfl fun cmd _ => by simp only [assemble, field_eq_bits]
  · intro r8 g8 b8 s
    simp only [exec, execColFrom8, succeed_eq_okRes, resColor_eq_lanes, reduce8_toNat]

end Sys2Proof.Proofs.ColorCommands

/-! PROOF. The PAL family (41_palette.md R144 to R148): the cell two wrapped indices name, and the palette blob as a
sequence of colour numbers. -/

namespace Sys2Proof.Proofs.PaletteCommands

open Sys2Proof Sys2Proof.Machine Sys2Proof.Statement Sys2Proof.Proofs.RowDecoding Sys2Proof.Proofs.ColorCommands

/-! Responses -/

theorem succeedWith_eq_okBytes (s : State) (bytes : List Byte) :
    succeedWith s bytes = .next { s with response := okBytes bytes } := succeedWith_eq s bytes

theorem raise_eq_notOk (s : State) (code : Stat) :
    raise s code = .next { s with response := notOk code } := raise_eq s code

/-! The stored colours -/

/-- Only the cell at the number of the wrapped indices is written (41_palette.md R143). -/
theorem writePal_palIndex_getElem (s : State) (sp ci : Byte) (c : Color) (i : Fin 256) :
    (writePal s (palIndex sp ci) c).pal[i] =
      if i.val = 16 * (sp.toNat % 16) + ci.toNat % 16 then c else s.pal[i] := by
  have hcell : i = palIndex sp ci ↔ i.val = 16 * (sp.toNat % 16) + ci.toNat % 16 := by
    rw [Fin.ext_iff, palIndex_val]
  rw [writePal_pal, getElem_set_fin]
  exact if_congr hcell rfl rfl

theorem packColor_toNat_eq_colorNumber (c : Color) : (packColor c).toNat = colorNumber c := packColor_toNat c

theorem unpackColor_eq_colorOfNumber (w : Half) : unpackColor w = colorOfNumber w.toNat := unpackColor_eq w

theorem memRead16_toNat_eq_itemNumber (pin : List Byte) (a : Nat) :
    (memRead16 pin a).toNat = itemNumber pin a := memRead16_toNat pin a

theorem importedPal_getElem_eq_colorOfNumber (pin : List Byte) (i : Fin 256) :
    (importedPal pin)[i] = colorOfNumber (itemNumber pin (2 * i.val)) := by
  rw [importedPal_getElem, unpackColor_eq_colorOfNumber, memRead16_toNat_eq_itemNumber]

/-! The five commands -/

/-- Settles O7: the palette is filled with the one colour (41_palette.md R144, reading G1). -/
theorem palNewMakesAllBlack : Obligations.PalNewMakesAllBlack := by
  constructor
  · exact decodesTo_of_row_without_payload .palNew rfl rfl fun _ _ => rfl
  · intro s
    refine ⟨Vector.replicate 256 { r := 0, g := 0, b := 0 }, fun i => ?_, succeed_eq_okRes _ 0⟩
    exact Vector.getElem_replicate i.isLt

/-- Settles O8: the witness is the wrapped index, below 256 for every pair of bytes (41_palette.md R143, R145). -/
theorem palGetWrapsBothIndices : Obligations.PalGetWrapsBothIndices := by
  constructor
  · exact decodesTo_of_row_without_payload .palGet rfl rfl fun cmd _ => by simp only [assemble, field_eq_bits]
  · intro sp ci s
    refine ⟨palIndex sp ci, palIndex_val sp ci, ?_⟩
    simp only [exec, execPalGet, readPal, succeed_eq_okRes, resColor_eq_lanes]

/-- Settles O9: the witness is the palette with the wrapped cell set (41_palette.md R143, R146). -/
theorem palSetWritesOneWrappedCell : Obligations.PalSetWritesOneWrappedCell := by
  constructor
  · exact decodesTo_of_row_without_payload .palSet rfl rfl fun cmd _ => by
      simp only [assemble, field_eq_bits, colorField_eq_bits]
  · intro sp ci c s
    exact ⟨_, writePal_palIndex_getElem s sp ci c, succeed_eq_okRes _ 0⟩

/-- Settles O10: two bytes for each colour's number, in index order (41_palette.md R147, 20_memory.md R54). -/
theorem palExportGivesLittleEndianWords : Obligations.PalExportGivesLittleEndianWords := by
  constructor
  · exact decodesTo_of_row_without_payload .palExport rfl rfl fun _ _ => rfl
  · intro s
    refine ⟨exportPal s, exportPal_length s, fun i => ?_, succeedWith_eq_okBytes s _⟩
    simpa only [packColor_toNat_eq_colorNumber] using exportPal_getElem? s i

/-- Settles O11: the length is checked before any byte is read, and every accepted item is a colour's number
(41_palette.md R148). -/
theorem palImportNeedsExactly512Bytes : Obligations.PalImportNeedsExactly512Bytes := by
  constructor
  · exact decodesTo_of_row .palImport rfl (fun _ _ => rfl) fun _ _ => rfl
  · intro pin s
    constructor
    · intro hlen
      simp only [exec, execPalImport, if_neg hlen, raise_eq_notOk]
    · intro hlen
      refine ⟨importedPal pin, importedPal_getElem_eq_colorOfNumber pin, ?_⟩
      simp only [exec, execPalImport, if_pos hlen, succeed_eq_okRes]

end Sys2Proof.Proofs.PaletteCommands

/-! PROOF. The TILE family's reads and writes (42_tile.md R164 to R167): the range test on both coordinates and on the
pixel value, and the planar blob as four planes of eight row bytes. -/

namespace Sys2Proof.Proofs.TileCommands

open Sys2Proof Sys2Proof.Machine Sys2Proof.Statement Sys2Proof.Proofs.RowDecoding Sys2Proof.Proofs.ColorCommands
  Sys2Proof.Proofs.PaletteCommands

/-! Operands and results -/

theorem tileCoord_of_toNat_eq {v : Byte} {i : Fin 8} (h : v.toNat = i.val) : tileCoord v = some i := by
  rw [tileCoord_of_lt (h ▸ i.isLt)]
  exact congrArg some (Fin.ext h)

theorem resPixel_eq_ofNat (c : BitVec 4) : resPixel c = BitVec.ofNat 64 c.toNat := by
  rw [← resPixel_toNat, BitVec.ofNat_toNat, BitVec.setWidth_eq]

/-! Reading and writing a pixel -/

theorem exec_tileGetpx_of_inRange {x y : Byte} {i j : Fin 8} (s : State) (hx : x.toNat = i.val)
    (hy : y.toNat = j.val) :
    exec (.tileGetpx x y) s = .next { s with response := okRes (BitVec.ofNat 64 s.pix[j][i].toNat) } := by
  simp only [exec, execTileGetpx, tileCoord_of_toNat_eq hx, tileCoord_of_toNat_eq hy, succeed_eq_okRes,
    resPixel_eq_ofNat, readPixel]

/-- One coordinate out of range is enough (42_tile.md R161). -/
theorem exec_tileGetpx_of_outOfRange {x y : Byte} (s : State) (h : 8 ≤ x.toNat ∨ 8 ≤ y.toNat) :
    exec (.tileGetpx x y) s = .next { s with response := okRes 0 } := by
  obtain hx | hy := h
  · simp only [exec, execTileGetpx, tileCoord_of_ge hx]
    exact succeed_eq_okRes s 0
  · simp only [exec, execTileGetpx, tileCoord_of_ge hy]
    cases tileCoord x <;> exact succeed_eq_okRes s 0

theorem exec_tileSetpx_of_inRange {x y c : Byte} {i j : Fin 8} (s : State) (hx : x.toNat = i.val)
    (hy : y.toNat = j.val) (hc : c.toNat ≤ 15) :
    exec (.tileSetpx x y c) s =
      .next { writePixel s i j (BitVec.ofNat 4 c.toNat) with response := okRes 0 } := by
  simp only [exec, execTileSetpx, tileCoord_of_toNat_eq hx, tileCoord_of_toNat_eq hy, pixelValue_of_le hc,
    succeed_eq_okRes]

/-- A coordinate or the value out of range is enough (42_tile.md R161, 90_conflicts.md C1). -/
theorem exec_tileSetpx_of_outOfRange {x y c : Byte} (s : State)
    (h : 8 ≤ x.toNat ∨ 8 ≤ y.toNat ∨ 15 < c.toNat) :
    exec (.tileSetpx x y c) s = .next { s with response := okRes 0 } := by
  obtain hx | hy | hc := h
  · simp only [exec, execTileSetpx, tileCoord_of_ge hx, succeed_eq_okRes]
  · simp only [exec, execTileSetpx, tileCoord_of_ge hy]
    cases tileCoord x <;> exact succeed_eq_okRes s 0
  · simp only [exec, execTileSetpx, pixelValue_of_gt hc]
    cases tileCoord x <;> cases tileCoord y <;> exact succeed_eq_okRes s 0

/-! The planar blob -/

/-- In a concatenation of rows of `n` items each, item `j` of row `i` stands at `n * i + j`. -/
theorem flatMap_getElem?_of_length_eq {α β : Type} {f : α → List β} {n : Nat} (hlen : ∀ a, (f a).length = n)
    (l : List α) {i j : Nat} (hj : j < n) : (l.flatMap f)[n * i + j]? = l[i]?.bind fun a => (f a)[j]? := by
  induction l generalizing i with
  | nil => rfl
  | cons a l ih =>
    rw [List.flatMap_cons]
    cases i with
    | zero => rw [Nat.mul_zero, Nat.zero_add, List.getElem?_append_left (by rwa [hlen])]; rfl
    | succ i =>
      have hrow : n * (i + 1) + j = (f a).length + (n * i + j) := by rw [hlen, Nat.mul_succ]; omega
      rw [hrow, List.getElem?_append_right (Nat.le_add_right _ _), Nat.add_sub_cancel_left, ih]
      rfl

theorem planarBlob_length (s : State) : (planarBlob s).length = 32 := by
  simp [planarBlob]

/-- Byte `8p + y` of the blob is plane `p` of row `y` (42_tile.md R167, 20_memory.md R55). -/
theorem planarBlob_getD (s : State) (p : Fin 4) (y : Fin 8) :
    (planarBlob s).getD (8 * p.val + y.val) 0 = planeByte s p.val y := by
  have hat : (planarBlob s)[8 * p.val + y.val]? = some (planeByte s p.val y) := by
    rw [planarBlob, flatMap_getElem?_of_length_eq (by simp) _ y.isLt]
    simp
  rw [List.getD_eq_getElem?_getD, hat, Option.getD_some]

/-! The four commands -/

/-- Settles O14: the tile is filled with the one value (42_tile.md R164, decision D9). -/
theorem tileNewMakesAllZero : Obligations.TileNewMakesAllZero := by
  constructor
  · exact decodesTo_of_row_without_payload .tileNew rfl rfl fun _ _ => rfl
  · intro s
    refine ⟨Vector.replicate 8 (Vector.replicate 8 0), fun y x => ?_, succeed_eq_okRes _ 0⟩
    simp only [Fin.getElem_fin, Vector.getElem_replicate]

/-- Settles O15: both coordinates name a pixel, or one of them is out of range (42_tile.md R165). -/
theorem tileGetpxReadsOrGivesZero : Obligations.TileGetpxReadsOrGivesZero := by
  refine ⟨?_, ?_, ?_⟩
  · exact decodesTo_of_row_without_payload .tileGetpx rfl rfl fun cmd _ => by simp only [assemble, field_eq_bits]
  · intro x y s i j hx hy
    exact exec_tileGetpx_of_inRange s hx hy
  · intro x y s hout
    exact exec_tileGetpx_of_outOfRange s hout

/-- Settles O16: the witness is the tile with the pixel set when all three operands are in range, and the tile as it was
otherwise, where no place meets the condition (42_tile.md R161, R166). -/
theorem tileSetpxWritesOrIgnores : Obligations.TileSetpxWritesOrIgnores := by
  constructor
  · exact decodesTo_of_row_without_payload .tileSetpx rfl rfl fun cmd _ => by simp only [assemble, field_eq_bits]
  · intro x y c s
    by_cases hin : x.toNat < 8 ∧ y.toNat < 8 ∧ c.toNat ≤ 15
    · obtain ⟨hx, hy, hc⟩ := hin
      refine ⟨(writePixel s ⟨x.toNat, hx⟩ ⟨y.toNat, hy⟩ (BitVec.ofNat 4 c.toNat)).pix, fun j i => ?_,
        exec_tileSetpx_of_inRange s rfl rfl hc⟩
      rw [writePixel_getElem]
      exact if_congr (by simp only [Fin.ext_iff, hc, true_and]) rfl rfl
    · refine ⟨s.pix, fun j i => (if_neg ?_).symm, exec_tileSetpx_of_outOfRange s (by omega)⟩
      rintro ⟨hc, hj, hi⟩
      exact hin ⟨hi ▸ i.isLt, hj ▸ j.isLt, hc⟩

/-- Settles O17: byte `8p + y` is a plane byte, whose bits are those of the row's pixels (42_tile.md R167). -/
theorem tileEncScattersPlanes : Obligations.TileEncScattersPlanes := by
  constructor
  · exact decodesTo_of_row_without_payload .tileEnc rfl rfl fun _ _ => rfl
  · intro s
    refine ⟨planarBlob s, planarBlob_length s, fun p y x => ?_, succeedWith_eq_okBytes s _⟩
    rw [planarBlob_getD, planeByte_getLsbD, readPixel]

end Sys2Proof.Proofs.TileCommands


/-! PROOF. The TME family (43_tilemap_entry.md R184 to R193): the record operands at their bit positions, the entry
words and the result lanes as arithmetic on the fields, and the clamps as the smaller of operand and bound. -/

namespace Sys2Proof.Proofs.EntryCommands

open Sys2Proof Sys2Proof.Machine Sys2Proof.Statement Sys2Proof.Proofs.RowDecoding Sys2Proof.Proofs.ColorCommands

/-! Operands -/

theorem flagField_eq_bit (cmd : BitVec 64) (i : Nat) : flagField cmd i = bit cmd i :=
  Nat.testBit_eq_decide_div_mod_eq

theorem entryAField_eq_bits (cmd : BitVec 64) : entryAField cmd =
    { tile := bits cmd 0 10, pal := bits cmd 16 3, h := bit cmd 24, v := bit cmd 25, prio := bit cmd 26 } := by
  simp only [entryAField, field_eq_bits, flagField_eq_bit]

theorem entryBField_eq_bits (cmd : BitVec 64) : entryBField cmd =
    { tile := bits cmd 0 10, pal := bits cmd 16 4, h := bit cmd 24, v := bit cmd 25 } := by
  simp only [entryBField, field_eq_bits, flagField_eq_bit]

/-! Results -/

theorem resEntryA_eq_recA (e : EntryA) : resEntryA e = recA e.tile.toNat e.pal.toNat e.h e.v e.prio := by
  rw [recA, ← resEntryA_toNat, BitVec.ofNat_toNat, BitVec.setWidth_eq]

theorem resEntryB_eq_recB (e : EntryB) : resEntryB e = recB e.tile.toNat e.pal.toNat e.h e.v := by
  rw [recB, ← resEntryB_toNat, BitVec.ofNat_toNat, BitVec.setWidth_eq]

theorem resWord_eq_ofNat (w : Half) : resWord w = BitVec.ofNat 64 w.toNat := by
  rw [← resWord_toNat, BitVec.ofNat_toNat, BitVec.setWidth_eq]

/-- A word's top four bits are all that is left above bit 11, so no bound acts on the palette index
(43_tilemap_entry.md R189). -/
theorem half_div_mod_sixteen (w : Half) : w.toNat / 2 ^ 12 % 2 ^ 4 = w.toNat / 2 ^ 12 := by
  have := w.isLt
  omega

/-! The ten commands -/

/-- Settles O21: each clamped field is the smaller of the operand and its largest value (43_tilemap_entry.md R183,
R184). -/
theorem tmeNewAClamps : Obligations.TmeNewAClamps := by
  constructor
  · exact decodesTo_of_row_without_payload .tmeNewA rfl rfl fun cmd _ => by
      simp only [assemble, field_eq_bits, flagField_eq_bit]
  · intro tile pal h v p s
    simp only [exec, execTmeNewA, succeed_eq_okRes, resEntryA_eq_recA, clampTile_toNat, clampPalA_toNat]

/-- Settles O22: the revision-B record has no priority, and its row does not read bit 26 (43_tilemap_entry.md R185,
90_conflicts.md C7). -/
theorem tmeNewBClamps : Obligations.TmeNewBClamps := by
  constructor
  · exact decodesTo_of_row_without_payload .tmeNewB rfl rfl fun cmd _ => by
      simp only [assemble, field_eq_bits, flagField_eq_bit]
  · intro tile pal h v s
    simp only [exec, execTmeNewB, succeed_eq_okRes, resEntryB_eq_recB, clampTile_toNat, clampPalB_toNat]

/-- Settles O23: the revision-A word as a number (43_tilemap_entry.md R186). -/
theorem tmePackABuildsWord : Obligations.TmePackABuildsWord := by
  constructor
  · exact decodesTo_of_row_without_payload .tmePackA rfl rfl fun cmd _ => by
      simp only [assemble, entryAField_eq_bits]
  · intro e s
    simp only [exec, execTmePackA, succeed_eq_okRes, resWord_eq_ofNat, packA_toNat]

/-- Settles O24: the revision-B word as a number (43_tilemap_entry.md R187). -/
theorem tmePackBBuildsWord : Obligations.TmePackBBuildsWord := by
  constructor
  · exact decodesTo_of_row_without_payload .tmePackB rfl rfl fun cmd _ => by
      simp only [assemble, entryBField_eq_bits]
  · intro e s
    simp only [exec, execTmePackB, succeed_eq_okRes, resWord_eq_ofNat, packB_toNat]

/-- Settles O25: each field is the word's number shifted down and cut to the field's width (43_tilemap_entry.md
R188). -/
theorem tmeUnpackATakesFields : Obligations.TmeUnpackATakesFields := by
  constructor
  · exact decodesTo_of_row_without_payload .tmeUnpackA rfl rfl fun cmd _ => by simp only [assemble, field_eq_bits]
  · intro w s
    simp only [exec, execTmeUnpackA, succeed_eq_okRes, resEntryA_eq_recA, unpackA_eq, BitVec.toNat_ofNat]

/-- Settles O26: the palette index is the top field of the word, so cutting it to four bits changes nothing
(43_tilemap_entry.md R189). -/
theorem tmeUnpackBTakesFields : Obligations.TmeUnpackBTakesFields := by
  constructor
  · exact decodesTo_of_row_without_payload .tmeUnpackB rfl rfl fun cmd _ => by simp only [assemble, field_eq_bits]
  · intro w s
    simp only [exec, execTmeUnpackB, succeed_eq_okRes, resEntryB_eq_recB, unpackB_eq, BitVec.toNat_ofNat,
      half_div_mod_sixteen]

/-- Settles O27: one field of the record is replaced before its lanes are read off (43_tilemap_entry.md R190, R191). -/
theorem tmeSettileReplacesTile : Obligations.TmeSettileReplacesTile := by
  refine ⟨?_, ?_, ?_, ?_⟩
  · exact decodesTo_of_row_without_payload .tmeSettileA rfl rfl fun cmd _ => by
      simp only [assemble, entryAField_eq_bits, field_eq_bits]
  · exact decodesTo_of_row_without_payload .tmeSettileB rfl rfl fun cmd _ => by
      simp only [assemble, entryBField_eq_bits, field_eq_bits]
  · intro e nv s
    simp only [exec, execTmeSettileA, succeed_eq_okRes, resEntryA_eq_recA, clampTile_toNat]
  · intro e nv s
    simp only [exec, execTmeSettileB, succeed_eq_okRes, resEntryB_eq_recB, clampTile_toNat]

/-- Settles O28: as for the tile, with the bound of each revision's palette field (43_tilemap_entry.md R192, R193). -/
theorem tmeSetpalReplacesPalette : Obligations.TmeSetpalReplacesPalette := by
  refine ⟨?_, ?_, ?_, ?_⟩
  · exact decodesTo_of_row_without_payload .tmeSetpalA rfl rfl fun cmd _ => by
      simp only [assemble, entryAField_eq_bits, field_eq_bits]
  · exact decodesTo_of_row_without_payload .tmeSetpalB rfl rfl fun cmd _ => by
      simp only [assemble, entryBField_eq_bits, field_eq_bits]
  · intro e nv s
    simp only [exec, execTmeSetpalA, succeed_eq_okRes, resEntryA_eq_recA, clampPalA_toNat]
  · intro e nv s
    simp only [exec, execTmeSetpalB, succeed_eq_okRes, resEntryB_eq_recB, clampPalB_toNat]

end Sys2Proof.Proofs.EntryCommands

/-! PROOF. The TM family (44_tilemap.md R211 to R220): the gate of R219 as one lemma over the commands that need a
tilemap, the clamped dimensions as numbers, and each cell of the grid at its row-major place. -/

namespace Sys2Proof.Proofs.TilemapCommands

open Sys2Proof Sys2Proof.Machine Sys2Proof.Statement Sys2Proof.Proofs.RowDecoding Sys2Proof.Proofs.ColorCommands
  Sys2Proof.Proofs.PaletteCommands Sys2Proof.Proofs.EntryCommands

/-! Operands and results -/

/-- The revision selector is bit 48 of the word (30_encoding.md R82). -/
theorem revField_eq_bit (cmd : BitVec 64) : revField cmd = if bit cmd 48 then .b else .a := by
  rw [revField, flagField_eq_bit]

theorem clampDim_eq_dim (v : Half) : clampDim v = BitVec.ofNat 9 (dim v) := clampDim_eq v

theorem clampDim_toNat_eq_dim (v : Half) : (clampDim v).toNat = dim v := clampDim_toNat v

/-- Comparing a clamped dimension with a register is comparing their numbers. -/
theorem clampDim_eq_iff (v : Half) (d : BitVec 9) : clampDim v = d ↔ dim v = d.toNat := by
  rw [← BitVec.toNat_inj, clampDim_toNat_eq_dim]

theorem resWord_eq_setWidth (w : Half) : resWord w = w.setWidth 64 := by
  rw [resWord_eq_ofNat, BitVec.ofNat_toNat]

theorem memRead16_eq_ofNat (pin : List Byte) (a : Nat) : memRead16 pin a = BitVec.ofNat 16 (itemNumber pin a) := by
  rw [← memRead16_toNat_eq_itemNumber, BitVec.ofNat_toNat, BitVec.setWidth_eq]

/-! The gate -/

/-- The six commands that need a tilemap complete `NOMAP` without one, whatever their operands (44_tilemap.md R219). -/
theorem exec_of_noMap {i : Instr} (hi : needsTilemap i = true) {s : State} (hs : s.tmValid = false) :
    exec i s = .next { s with response := notOk .noMap } := by
  cases i with
  | tmGet x y => exact needMap_of_none hs _
  | tmSet x y w => exact needMap_of_none hs _
  | tmResize width height => exact needMap_of_none hs _
  | tmClear => exact needMap_of_none hs _
  | tmFill w => exact needMap_of_none hs _
  | tmExport => exact needMap_of_none hs _
  | _ => simp [needsTilemap, opcodeOfInstr] at hi

/-! The cells of the grid -/

theorem inGrid_iff (s : State) (x y : Half) :
    inGrid s x y = true ↔ x.toNat < s.tmW.toNat ∧ y.toNat < s.tmH.toNat := by
  simp [inGrid]

/-- The row-major place of a cell inside a `w` by `h` grid is below the grid's area (10_state.md R28). -/
theorem rowMajor_lt {w h x y : Nat} (hx : x < w) (hy : y < h) : y * w + x < w * h :=
  calc y * w + x < y * w + w := Nat.add_lt_add_left hx _
    _ = w * (y + 1) := by rw [Nat.mul_succ, Nat.mul_comm]
    _ ≤ w * h := Nat.mul_le_mul_left _ hy

/-- Under the tilemap invariant a cell inside the grid is in the list of cells (10_state.md R29). -/
theorem cells_getElem?_of_inGrid {s : State} (hs : TilemapOk s) (hv : s.tmValid = true) {x y : Nat}
    (hx : x < s.tmW.toNat) (hy : y < s.tmH.toNat) :
    s.cells[y * s.tmW.toNat + x]? = some (cellWord s.cells (y * s.tmW.toNat + x)) := by
  obtain ⟨_, _, hlen⟩ := hs hv
  have hlt : y * s.tmW.toNat + x < s.cells.length := hlen ▸ rowMajor_lt hx hy
  rw [cellWord, List.getD_eq_getElem?_getD, List.getElem?_eq_getElem hlt, Option.getD_some]

/-! Reading and writing one cell -/

theorem exec_tmGet_of_inGrid {s : State} {x y : Half} (hv : s.tmValid = true) (hx : x.toNat < s.tmW.toNat)
    (hy : y.toNat < s.tmH.toNat) :
    exec (.tmGet x y) s = .next { s with
      response := okRes ((cellWord s.cells (y.toNat * s.tmW.toNat + x.toNat)).setWidth 64) } := by
  simp only [exec, execTmGet, needMap_of_valid hv, if_pos ((inGrid_iff s x y).mpr ⟨hx, hy⟩), succeed_eq_okRes,
    resWord_eq_setWidth, cellIndex]

theorem exec_tmGet_of_not_inGrid {s : State} {x y : Half} (hv : s.tmValid = true)
    (hout : ¬ (x.toNat < s.tmW.toNat ∧ y.toNat < s.tmH.toNat)) :
    exec (.tmGet x y) s = .next { s with response := notOk .absent } := by
  simp only [exec, execTmGet, needMap_of_valid hv, if_neg (mt (inGrid_iff s x y).mp hout), raise_eq_notOk]

theorem exec_tmSet_of_inGrid {s : State} {x y : Half} (w : Half) (hv : s.tmValid = true)
    (hin : x.toNat < s.tmW.toNat ∧ y.toNat < s.tmH.toNat) :
    exec (.tmSet x y w) s = .next { s with
      cells := s.cells.set (y.toNat * s.tmW.toNat + x.toNat) w, response := okRes 0 } := by
  simp only [exec, execTmSet, needMap_of_valid hv, if_pos ((inGrid_iff s x y).mpr hin), succeed_eq_okRes,
    entryWord_eq, writeCell, cellIndex]

theorem exec_tmSet_of_not_inGrid {s : State} {x y : Half} (w : Half) (hv : s.tmValid = true)
    (hout : ¬ (x.toNat < s.tmW.toNat ∧ y.toNat < s.tmH.toNat)) :
    exec (.tmSet x y w) s = .next { s with response := okRes 0 } := by
  simp only [exec, execTmSet, needMap_of_valid hv, if_neg (mt (inGrid_iff s x y).mp hout), succeed_eq_okRes]

/-! Making and resizing the grid -/

/-- What `TM.NEW` and a successful `TM.IMPORT` leave: the whole tilemap state replaced (44_tilemap.md R211, R220). -/
theorem succeed_installMap (s : State) (rev : Revision) (width height : Half) (cells : List Half) :
    succeed (installMap s rev (clampDim width) (clampDim height) cells) 0 = .next { s with
      tmValid := true, tmRev := rev, tmW := BitVec.ofNat 9 (dim width), tmH := BitVec.ofNat 9 (dim height),
      cells := cells, response := okRes 0 } := by
  simp only [succeed_eq_okRes, installMap, clampDim_eq_dim]

theorem exec_tmResize_of_sameSize {s : State} {width height : Half} (hv : s.tmValid = true)
    (hsame : dim width = s.tmW.toNat ∧ dim height = s.tmH.toNat) :
    exec (.tmResize width height) s = .next { s with response := okRes 0 } := by
  have hregs : clampDim width = s.tmW ∧ clampDim height = s.tmH := by simpa only [clampDim_eq_iff] using hsame
  simp only [exec, execTmResize, needMap_of_valid hv, if_pos hregs, succeed_eq_okRes]

theorem exec_tmResize_of_newSize {s : State} {width height : Half} (hv : s.tmValid = true)
    (hnew : ¬ (dim width = s.tmW.toNat ∧ dim height = s.tmH.toNat)) :
    exec (.tmResize width height) s = .next { s with
      tmW := BitVec.ofNat 9 (dim width), tmH := BitVec.ofNat 9 (dim height),
      cells := resizedCells s (dim width) (dim height), response := okRes 0 } := by
  have hregs : ¬ (clampDim width = s.tmW ∧ clampDim height = s.tmH) := by simpa only [clampDim_eq_iff] using hnew
  simp only [exec, execTmResize, needMap_of_valid hv, if_neg hregs, succeed_eq_okRes, clampDim_toNat_eq_dim,
    ← clampDim_eq_dim]

/-! The nine commands -/

/-- Settles O31: the witness is a list of zero words, as many as the clamped dimensions say (44_tilemap.md R211,
decision D10). -/
theorem tmNewMakesDefaultGrid : Obligations.TmNewMakesDefaultGrid := by
  constructor
  · exact decodesTo_of_row_without_payload .tmNew rfl rfl fun cmd _ => by
      simp only [assemble, field_eq_bits, revField_eq_bit]
  · intro width height rev s
    refine ⟨defaultCells rev (dim width * dim height), defaultCells_length .., fun i hi => ?_, ?_⟩
    · rw [defaultCells, defaultWord_eq, List.getElem?_replicate_of_lt hi]
    · simp only [exec, execTmNew, succeed_installMap, clampDim_toNat_eq_dim]

/-- Settles O32: freeing changes the tilemap registers only, and without a tilemap not even these (44_tilemap.md R212,
decision D11). -/
theorem tmFreeDestroysTilemap : Obligations.TmFreeDestroysTilemap := by
  refine ⟨?_, ?_, ?_⟩
  · exact decodesTo_of_row_without_payload .tmFree rfl rfl fun _ _ => rfl
  · intro s hv
    simp only [exec, execTmFree, freeMap_of_none hv, succeed_eq_okRes]
  · intro s
    exact ⟨_, succeed_eq_okRes (freeMap s) 0, freeMap_tmValid s, rfl, freeMap_hasTmap s, freeMap_pal s,
      freeMap_pix s, freeMap_stream s⟩

/-- Settles O33: inside the grid the invariant puts the cell in the list (44_tilemap.md R213). -/
theorem tmGetReadsCellOrAbsent : Obligations.TmGetReadsCellOrAbsent := by
  constructor
  · exact decodesTo_of_row_without_payload .tmGet rfl rfl fun cmd _ => by simp only [assemble, field_eq_bits]
  · intro x y s hs
    refine ⟨exec_of_noMap rfl, ?_, ?_⟩
    · intro hv hx hy
      exact ⟨_, cells_getElem?_of_inGrid hs hv hx hy, exec_tmGet_of_inGrid hv hx hy⟩
    · intro hv hout
      exact exec_tmGet_of_not_inGrid hv (by omega)

/-- Settles O34: the witness is the list with the one cell set inside the grid, and the list as it was outside it, where
no place meets the condition (44_tilemap.md R214). -/
theorem tmSetWritesOneCellOrNone : Obligations.TmSetWritesOneCellOrNone := by
  refine ⟨?_, ?_, ?_⟩
  · exact decodesTo_of_row_without_payload .tmSet rfl rfl fun cmd _ => by simp only [assemble, field_eq_bits]
  · intro x y w s hv
    exact exec_of_noMap rfl hv
  · intro x y w s hv
    by_cases hin : x.toNat < s.tmW.toNat ∧ y.toNat < s.tmH.toNat
    · refine ⟨_, List.length_set, fun j hj => ?_, exec_tmSet_of_inGrid w hv hin⟩
      obtain ⟨hx, hy⟩ := hin
      by_cases hcell : j = y.toNat * s.tmW.toNat + x.toNat
      · rw [if_pos ⟨hx, hy, hcell⟩, ← hcell, List.getElem?_set_self hj]
      · rw [if_neg fun ⟨_, _, hj'⟩ => hcell hj', List.getElem?_set_ne (Ne.symm hcell)]
    · refine ⟨s.cells, rfl, fun j _ => (if_neg ?_).symm, exec_tmSet_of_not_inGrid w hv hin⟩
      rintro ⟨hx, hy, _⟩
      exact hin ⟨hx, hy⟩

/-- Settles O35: a cell inside both grids is in the old list, by the invariant, so it is the word carried over
(44_tilemap.md R215, decision D10). -/
theorem tmResizeKeepsCommonCells : Obligations.TmResizeKeepsCommonCells := by
  constructor
  · exact decodesTo_of_row_without_payload .tmResize rfl rfl fun cmd _ => by simp only [assemble, field_eq_bits]
  · intro width height s hs
    refine ⟨exec_of_noMap rfl, exec_tmResize_of_sameSize, fun hv hnew => ?_⟩
    refine ⟨_, resizedCells_length .., fun x hx y hy => ?_, exec_tmResize_of_newSize hv hnew⟩
    rw [resizedCells_getElem? s _ _ x y hx hy]
    split
    next hold =>
      obtain ⟨hxOld, hyOld⟩ := hold
      exact (cells_getElem?_of_inGrid hs hv hxOld hyOld).symm
    next => rfl

/-- Settles O36: both leave one word repeated over the area of the grid there is (44_tilemap.md R216, R217,
decision D10). -/
theorem tmClearAndFillEveryCell : Obligations.TmClearAndFillEveryCell := by
  refine ⟨?_, ?_, ?_, ?_⟩
  · exact decodesTo_of_row_without_payload .tmClear rfl rfl fun _ _ => rfl
  · exact decodesTo_of_row_without_payload .tmFill rfl rfl fun cmd _ => by simp only [assemble, field_eq_bits]
  · intro w s hv
    exact ⟨exec_of_noMap rfl hv, exec_of_noMap rfl hv⟩
  · intro w s hv
    refine ⟨List.replicate (s.tmW.toNat * s.tmH.toNat) 0, List.replicate (s.tmW.toNat * s.tmH.toNat) w,
      List.length_replicate, fun _ => List.eq_of_mem_replicate, List.length_replicate,
      fun _ => List.eq_of_mem_replicate, ?_, ?_⟩
    · simp only [exec, execTmClear, needMap_of_valid hv, succeed_eq_okRes, defaultCells, defaultWord_eq]
    · simp only [exec, execTmFill, needMap_of_valid hv, succeed_eq_okRes, entryWord_eq]

/-- Settles O37: two bytes for the cell at each row-major place, which the invariant puts in the list
(44_tilemap.md R218, 20_memory.md R56). -/
theorem tmExportGivesLittleEndianWords : Obligations.TmExportGivesLittleEndianWords := by
  constructor
  · exact decodesTo_of_row_without_payload .tmExport rfl rfl fun _ _ => rfl
  · intro s hs
    refine ⟨exec_of_noMap rfl, fun hv => ⟨exportCells s, exportCells_length s, fun x hx y hy => ?_, ?_⟩⟩
    · exact ⟨_, cells_getElem?_of_inGrid hs hv hx hy, exportCells_getElem? s _ (rowMajor_lt hx hy)⟩
    · simp only [exec, execTmExport, needMap_of_valid hv, succeedWith_eq_okBytes]

/-- Settles O38: the length is compared with the clamped dimensions before any byte is read, and every accepted item is
a cell's word (44_tilemap.md R220). -/
theorem tmImportNeedsExactLength : Obligations.TmImportNeedsExactLength := by
  constructor
  · exact decodesTo_of_row .tmImport rfl (fun _ _ => rfl) fun cmd _ => by
      simp only [assemble, field_eq_bits, revField_eq_bit]
  · intro width height rev pin s
    constructor
    · intro hlen
      simp only [exec, execTmImport, clampDim_toNat_eq_dim, if_neg hlen, raise_eq_notOk]
    · intro hlen
      refine ⟨importedCells rev (dim width * dim height) pin, importedCells_length .., fun i hi => ?_, ?_⟩
      · rw [importedCells_getElem? rev _ pin i hi, memRead16_eq_ofNat]
      · simp only [exec, execTmImport, clampDim_toNat_eq_dim, if_pos hlen, succeed_installMap]

end Sys2Proof.Proofs.TilemapCommands

/-! PROOF. Decoding undoes encoding (30_encoding.md R80 to R82): each operand is read back from the lanes its row placed
it in, since the other lanes and the opcode lie wholly above or below. -/

namespace Sys2Proof.Proofs.EncodingRoundTrip

open Sys2Proof Sys2Proof.Machine Sys2Proof.Statement Sys2Proof.Proofs.MalformedCommands

/-! Operands -/

/-- The opcode stands above every operand, so no row's operands see it. -/
theorem assemble_under_opcode (o : Opcode) (code : BitVec 8) (arg : BitVec 64) (pin : List Byte) :
    assemble o (place code 56 ||| arg) pin = assemble o arg pin := by
  cases o <;> simp (disch := omega) [assemble, colorField, entryAField, entryBField, revField, field_place_below,
    flagField_place_below]

/-- The selector's bit chooses the revision it was made from (30_encoding.md R82). -/
theorem rev_of_revBit (rev : Revision) : (if revBit rev = true then Revision.b else .a) = rev := by
  cases rev <;> rfl

/-- In every row each operand is read where it was placed, and every other operand lies above or below it. -/
theorem assemble_argLanes (i : Instr) : assemble (opcodeOfInstr i) (argLanes i) (payloadOf i) = i := by
  cases i <;> simp (disch := omega) [assemble, opcodeOfInstr, argLanes, payloadOf, colorField, colorLanes, channelLanes,
    entryAField, entryALanes, entryBField, entryBLanes, revField, placeFlag, rev_of_revBit, field_place_self,
    field_place_above, field_place_below, flagField_place_self, flagField_place_above, flagField_place_below]

theorem assemble_encode (i : Instr) : assemble (opcodeOfInstr i) (encode i).cmd (encode i).pin = i :=
  (assemble_under_opcode ..).trans (assemble_argLanes i)

/-! The payload -/

/-- Only an instruction with a payload has a length to check; every other one carries no bytes. -/
theorem payloadOf_length_lt {i : Instr} (hi : i.wellFormed = true) : (payloadOf i).length < 2 ^ 32 := by
  cases i with
  | palImport pin => exact of_decide_eq_true hi
  | tmImport width height rev pin => exact of_decide_eq_true hi
  | tileDec pin => rw [payloadOf, beq_iff_eq.mp hi]; decide
  | _ => exact Nat.two_pow_pos 32

theorem encode_plen_toNat {i : Instr} (hi : i.wellFormed = true) :
    (encode i).plen.toNat = (payloadOf i).length :=
  (BitVec.toNat_ofNat ..).trans (Nat.mod_eq_of_lt (payloadOf_length_lt hi))

/-- The fixed length of a row is that of the payload its instruction carries (30_encoding.md R87). -/
theorem acceptsPlen_encode {i : Instr} (hi : i.wellFormed = true) :
    (opcodeOfInstr i).acceptsPlen (encode i).plen = true := by
  cases i with
  | tileDec pin =>
    simpa [Opcode.acceptsPlen, Opcode.payloadIn, opcodeOfInstr, encode_plen_toNat hi, payloadOf,
      Instr.wellFormed] using hi
  | _ => rfl

/-- Settles O46: the opcode byte selects the row, whose operands are read back from their lanes. -/
theorem decodeOfEncodeIsIdentity : Obligations.DecodeOfEncodeIsIdentity := by
  intro i hi
  obtain ⟨_, hrow⟩ := Laws.OpcodeByte.of_arg i (Laws.OpcodeByte.argLanes_below i)
  refine ⟨encode_plen_toNat hi, ?_⟩
  simp [decode_of_opcodeOf_some hrow, acceptsPlen_encode hi, assemble_encode]

/-- Settles O47: each word has its row's opcode and its operands in the row's lanes (30_encoding.md section 6). -/
theorem encodingExamplesDecode : Obligations.EncodingExamplesDecode := by
  unfold Obligations.EncodingExamplesDecode
  decide

end Sys2Proof.Proofs.EncodingRoundTrip

/-! PROOF. Each family and its own store (40_color.md R120, 41_palette.md R140, 42_tile.md R160, 43_tilemap_entry.md
R180, 44_tilemap.md R209): a command writes that store only and reads that store only. Both together say that states
which hold the same block cannot be told apart. -/

namespace Sys2Proof.Proofs.Families

open Sys2Proof Sys2Proof.Machine Sys2Proof.Statement

/-! What a family writes -/

/-- `t` is `s` outside the store of family `f` and the response. -/
def SameOutsideStore (f : Nat) (s t : State) : Prop :=
  t.stream = s.stream ∧ t.hasTmap = s.hasTmap ∧ (f ≠ 2 → t.pal = s.pal) ∧ (f ≠ 3 → t.pix = s.pix) ∧
    (f ≠ 5 → SameTilemapRegisters t s ∧ t.freeCount = s.freeCount)

theorem sameOutsideStore_refl (f : Nat) (s : State) : SameOutsideStore f s s :=
  ⟨rfl, rfl, fun _ => rfl, fun _ => rfl, fun _ => ⟨⟨rfl, rfl, rfl, rfl, rfl⟩, rfl⟩⟩

theorem sameOutsideStore_withPal (s : State) (pal : Vector Color 256) :
    SameOutsideStore 2 s { s with pal := pal } :=
  ⟨rfl, rfl, fun h => absurd rfl h, fun _ => rfl, fun _ => ⟨⟨rfl, rfl, rfl, rfl, rfl⟩, rfl⟩⟩

theorem sameOutsideStore_withPix (s : State) (pix : Vector (Vector (BitVec 4) 8) 8) :
    SameOutsideStore 3 s { s with pix := pix } :=
  ⟨rfl, rfl, fun _ => rfl, fun h => absurd rfl h, fun _ => ⟨⟨rfl, rfl, rfl, rfl, rfl⟩, rfl⟩⟩

theorem sameOutsideStore_withTilemap (s : State) (valid : Bool) (rev : Revision) (w h : BitVec 9)
    (cells : List Half) :
    SameOutsideStore 5 s { s with tmValid := valid, tmRev := rev, tmW := w, tmH := h, cells := cells } :=
  ⟨rfl, rfl, fun _ => rfl, fun _ => rfl, fun h => absurd rfl h⟩

theorem sameOutsideStore_freeMap (s : State) : SameOutsideStore 5 s (freeMap s) :=
  ⟨freeMap_stream s, freeMap_hasTmap s, fun _ => freeMap_pal s, fun _ => freeMap_pix s, fun h => absurd rfl h⟩

/-- The outcome is a next state that is `s` outside the store of family `f`. -/
def WritesStoreOnly (f : Nat) (s : State) (o : Host.Outcome State Fault Refusal) : Prop :=
  ∃ t : State, o = .next t ∧ SameOutsideStore f s t

section
variable {f : Nat} {s : State}

/-- Completing writes the response only, so what counts is the state completed from. -/
theorem writesStoreOnly_complete {u : State} (hu : SameOutsideStore f s u) (code : Stat) (res : BitVec 64)
    (pout : List Byte) : WritesStoreOnly f s (complete u code res pout) := ⟨_, rfl, hu⟩

theorem writesStoreOnly_ite {p : Prop} [Decidable p] {a b : Host.Outcome State Fault Refusal}
    (ha : WritesStoreOnly f s a) (hb : WritesStoreOnly f s b) : WritesStoreOnly f s (if p then a else b) := by
  split
  · exact ha
  · exact hb

theorem writesStoreOnly_needMap {act : Host.Outcome State Fault Refusal} (hact : WritesStoreOnly f s act) :
    WritesStoreOnly f s (needMap s act) := writesStoreOnly_ite hact
    (writesStoreOnly_complete (sameOutsideStore_refl f s) ..)

end

/-- Every command completes from the state it was given, or from that state with its family's store replaced. -/
theorem exec_writesStoreOnly (i : Instr) (s : State) : WritesStoreOnly (family i) s (exec i s) := by
  have same {f code res pout} : WritesStoreOnly f s (complete s code res pout) :=
    writesStoreOnly_complete (sameOutsideStore_refl f s) ..
  have palette {pal} : WritesStoreOnly 2 s (succeed { s with pal := pal } 0) :=
    writesStoreOnly_complete (sameOutsideStore_withPal s pal) ..
  have tile {pix} : WritesStoreOnly 3 s (succeed { s with pix := pix } 0) :=
    writesStoreOnly_complete (sameOutsideStore_withPix s pix) ..
  have tilemap {valid rev w h cells} : WritesStoreOnly 5 s
      (succeed { s with tmValid := valid, tmRev := rev, tmW := w, tmH := h, cells := cells } 0) :=
    writesStoreOnly_complete (sameOutsideStore_withTilemap s valid rev w h cells) ..
  rw [family]
  cases i with dsimp only [opcodeOfInstr]
  | palNew => exact palette
  | palSet sp ci c => exact palette
  | palImport pin => exact writesStoreOnly_ite palette same
  | tileNew => exact tile
  | tileDec pin => exact writesStoreOnly_ite tile same
  | tileGetpx x y =>
    simp only [exec, execTileGetpx]
    split <;> exact same
  | tileSetpx x y c =>
    simp only [exec, execTileSetpx]
    split
    · exact tile
    · exact same
  | tmNew width height rev => exact tilemap
  | tmFree => exact writesStoreOnly_complete (sameOutsideStore_freeMap s) ..
  | tmGet x y => exact writesStoreOnly_needMap (writesStoreOnly_ite same same)
  | tmSet x y w => exact writesStoreOnly_needMap (writesStoreOnly_ite tilemap same)
  | tmResize width height => exact writesStoreOnly_needMap (writesStoreOnly_ite same tilemap)
  | tmClear => exact writesStoreOnly_needMap tilemap
  | tmFill w => exact writesStoreOnly_needMap tilemap
  | tmExport => exact writesStoreOnly_needMap same
  | tmImport width height rev pin => exact writesStoreOnly_ite tilemap same
  | _ => exact same

/-- Settles O57: the state each command completes from is the given one outside its family's store. -/
theorem familiesWriteOnlyTheirStore : Obligations.FamiliesWriteOnlyTheirStore := exec_writesStoreOnly

/-! Commands that only read -/

/-- The outcome is the given state with another response. -/
def RespondsOnly (s : State) (o : Host.Outcome State Fault Refusal) : Prop :=
  ∃ r : Response, o = .next { s with response := some r }

theorem respondsOnly_complete (s : State) (code : Stat) (res : BitVec 64) (pout : List Byte) :
    RespondsOnly s (complete s code res pout) := ⟨_, rfl⟩

theorem respondsOnly_ite {s : State} {p : Prop} [Decidable p] {a b : Host.Outcome State Fault Refusal}
    (ha : RespondsOnly s a) (hb : RespondsOnly s b) : RespondsOnly s (if p then a else b) := by
  split
  · exact ha
  · exact hb

theorem respondsOnly_needMap {s : State} {act : Host.Outcome State Fault Refusal} (hact : RespondsOnly s act) :
    RespondsOnly s (needMap s act) := respondsOnly_ite hact (respondsOnly_complete ..)

/-- Settles O56: every path of a command that reads completes from the state it was given (20_memory.md R59). -/
theorem readsHaveNoSideEffect : Obligations.ReadsHaveNoSideEffect := by
  intro i s hi
  rw [onlyReads, family] at hi
  have same {code res pout} := respondsOnly_complete s code res pout
  cases i with dsimp only [opcodeOfInstr] at hi
  | palNew | palSet | palImport | tileNew | tileSetpx | tileDec | tmNew | tmFree | tmSet | tmResize | tmClear
  | tmFill | tmImport => simp [Opcode.code] at hi
  | tileGetpx x y =>
    simp only [exec, execTileGetpx]
    split <;> exact same
  | tmGet x y => exact respondsOnly_needMap (respondsOnly_ite same same)
  | tmExport => exact respondsOnly_needMap same
  | _ => exact same

/-! What a family reads -/

/-- The two states agree on the store of family `f`; COL and TME have none. -/
def SameStore (f : Nat) (s t : State) : Prop :=
  (f = 2 → s.pal = t.pal) ∧ (f = 3 → s.pix = t.pix) ∧ (f = 5 → SameTilemap s t)

theorem sameStore_of_pal {s t : State} (h : s.pal = t.pal) : SameStore 2 s t := ⟨fun _ => h, nofun, nofun⟩

theorem sameStore_of_pix {s t : State} (h : s.pix = t.pix) : SameStore 3 s t := ⟨nofun, fun _ => h, nofun⟩

theorem sameStore_of_tilemap {s t : State} (h : SameTilemap s t) : SameStore 5 s t := ⟨nofun, nofun, fun _ => h⟩

theorem sameStore_withPal (s t : State) (pal : Vector Color 256) :
    SameStore 2 { s with pal := pal } { t with pal := pal } := sameStore_of_pal rfl

theorem sameStore_withPix (s t : State) (pix : Vector (Vector (BitVec 4) 8) 8) :
    SameStore 3 { s with pix := pix } { t with pix := pix } := sameStore_of_pix rfl

theorem sameStore_withTilemap (s t : State) (valid : Bool) (rev : Revision) (w h : BitVec 9) (cells : List Half) :
    SameStore 5 { s with tmValid := valid, tmRev := rev, tmW := w, tmH := h, cells := cells }
      { t with tmValid := valid, tmRev := rev, tmW := w, tmH := h, cells := cells } :=
  sameStore_of_tilemap ⟨rfl, fun _ => ⟨rfl, rfl, rfl, rfl⟩⟩

theorem sameStore_freeMap (s t : State) : SameStore 5 (freeMap s) (freeMap t) :=
  sameStore_of_tilemap (by simp [SameTilemap])

/-- Whatever next states two outcomes have, these show the same response and agree on the store of family `f`. -/
def Alike (f : Nat) (o p : Host.Outcome State Fault Refusal) : Prop :=
  ∀ s t : State, o = .next s → p = .next t → s.response = t.response ∧ SameStore f s t

section
variable {f : Nat} {s t : State}

theorem alike_complete {u v : State} (huv : SameStore f u v) {code : Stat} {res : BitVec 64} {pout : List Byte} :
    Alike f (complete u code res pout) (complete v code res pout) := by
  rintro _ _ ⟨⟩ ⟨⟩
  exact ⟨rfl, huv⟩

theorem alike_ite {p : Prop} [Decidable p] {a b a' b' : Host.Outcome State Fault Refusal} (ha : Alike f a a')
    (hb : Alike f b b') : Alike f (if p then a else b) (if p then a' else b') := by
  split
  · exact ha
  · exact hb

/-- The gate answers alike on the same tilemap; behind it every tilemap register is the same. -/
theorem alike_needMap (hst : SameTilemap s t) {a b : Host.Outcome State Fault Refusal}
    (hab : SameTilemapRegisters s t → Alike 5 a b) : Alike 5 (needMap s a) (needMap t b) := by
  obtain ⟨hvalid, hregs⟩ := hst
  cases hv : s.tmValid
  · rw [needMap_of_none hv, needMap_of_none (hvalid ▸ hv)]
    exact alike_complete (sameStore_of_tilemap ⟨hvalid, hregs⟩)
  · rw [needMap_of_valid hv, needMap_of_valid (hvalid ▸ hv)]
    exact hab ⟨hvalid, hregs hv⟩

end

/-- Every command reads its family's store only, and what it writes there is made from what it read. -/
theorem exec_alike (i : Instr) {s t : State} (h : SameStore (family i) s t) :
    Alike (family i) (exec i s) (exec i t) := by
  have palette {pal} : Alike 2 (succeed { s with pal := pal } 0) (succeed { t with pal := pal } 0) :=
    alike_complete (sameStore_withPal s t pal)
  have tile {pix} : Alike 3 (succeed { s with pix := pix } 0) (succeed { t with pix := pix } 0) :=
    alike_complete (sameStore_withPix s t pix)
  have tilemap {valid rev w h cells} : Alike 5
      (succeed { s with tmValid := valid, tmRev := rev, tmW := w, tmH := h, cells := cells } 0)
      (succeed { t with tmValid := valid, tmRev := rev, tmW := w, tmH := h, cells := cells } 0) :=
    alike_complete (sameStore_withTilemap s t valid rev w h cells)
  rw [family] at h ⊢
  have same {code res pout} := alike_complete h (code := code) (res := res) (pout := pout)
  obtain ⟨hpal, hpix, hmap⟩ := h
  cases i with dsimp only [opcodeOfInstr] at hpal hpix hmap same ⊢
  | palNew => exact palette
  | palGet sp ci =>
    simp only [exec, execPalGet, readPal, hpal rfl]
    exact same
  | palSet sp ci c =>
    simp only [exec, execPalSet, writePal, hpal rfl]
    exact palette
  | palExport =>
    simp only [exec, execPalExport, exportPal, readPal, hpal rfl]
    exact same
  | palImport pin => exact alike_ite palette same
  | tileNew => exact tile
  | tileGetpx x y =>
    simp only [exec, execTileGetpx, readPixel, hpix rfl]
    split <;> exact same
  | tileSetpx x y c =>
    simp only [exec, execTileSetpx, writePixel, hpix rfl]
    split
    · exact tile
    · exact same
  | tileEnc =>
    simp only [exec, execTileEnc, planarBlob, planeByte, readPixel, hpix rfl]
    exact same
  | tileDec pin => exact alike_ite tile same
  | tmNew width height rev => exact tilemap
  | tmFree => exact alike_complete (sameStore_freeMap s t)
  | tmGet x y =>
    refine alike_needMap (hmap rfl) fun ⟨_, _, hw, hh, hcells⟩ => ?_
    simp only [inGrid, cellIndex, hw, hh, hcells]
    exact alike_ite same same
  | tmSet x y w =>
    refine alike_needMap (hmap rfl) fun ⟨hvalid, hrev, hw, hh, hcells⟩ => ?_
    simp only [inGrid, cellIndex, writeCell, hvalid, hrev, hw, hh, hcells]
    exact alike_ite tilemap same
  | tmResize width height =>
    refine alike_needMap (hmap rfl) fun ⟨hvalid, hrev, hw, hh, hcells⟩ => ?_
    simp only [resizedCells, hvalid, hrev, hw, hh, hcells]
    exact alike_ite same tilemap
  | tmClear =>
    refine alike_needMap (hmap rfl) fun ⟨hvalid, hrev, hw, hh, _⟩ => ?_
    simp only [hvalid, hrev, hw, hh]
    exact tilemap
  | tmFill w =>
    refine alike_needMap (hmap rfl) fun ⟨hvalid, hrev, hw, hh, _⟩ => ?_
    simp only [hvalid, hrev, hw, hh]
    exact tilemap
  | tmExport =>
    refine alike_needMap (hmap rfl) fun ⟨_, _, hw, hh, hcells⟩ => ?_
    simp only [exportCells, hw, hh, hcells]
    exact same
  | tmImport width height rev pin => exact alike_ite tilemap same
  | _ => exact same

/-- Settles O58: agreement on the family's store is all that a command needs to answer and write alike. -/
theorem familiesReadOnlyTheirStore : Obligations.FamiliesReadOnlyTheirStore := by
  intro i s t s' t' hs ht
  have alike (h : SameStore (family i) s t) : s'.response = t'.response ∧ SameStore (family i) s' t' :=
    exec_alike i h s' t' hs ht
  refine ⟨fun hf => ?_, fun hf hpal => ?_, fun hf hpix => ?_, fun hf hmap => ?_⟩
  · exact (alike ⟨by omega, by omega, by omega⟩).left
  · obtain ⟨hresp, hpal', _⟩ := alike (hf ▸ sameStore_of_pal hpal)
    exact ⟨hresp, hpal' hf⟩
  · obtain ⟨hresp, _, hpix', _⟩ := alike (hf ▸ sameStore_of_pix hpix)
    exact ⟨hresp, hpix' hf⟩
  · obtain ⟨hresp, _, _, hmap'⟩ := alike (hf ▸ sameStore_of_tilemap hmap)
    exact ⟨hresp, hmap' hf⟩

/-! What the host can tell apart -/

theorem sameTilemap_congr {s t s' t' : State} (hs : SameTilemapRegisters s' s) (ht : SameTilemapRegisters t' t)
    (h : SameTilemap s t) : SameTilemap s' t' := by
  obtain ⟨hsv, hsr, hsw, hsh, hsc⟩ := hs
  obtain ⟨htv, htr, htw, hth, htc⟩ := ht
  rwa [SameTilemap, hsv, hsr, hsw, hsh, hsc, htv, htr, htw, hth, htc]

/-- A command keeps states alike that hold the same block: its own family's store by what it reads, every other store
because it leaves it alone. -/
theorem exec_keeps_sameBlock (i : Instr) {s t : State} (h : SameBlock s t) : ∃ s' t' : State,
    exec i s = .next s' ∧ exec i t = .next t' ∧ SameBlock s' t' ∧ s'.response = t'.response := by
  obtain ⟨hunit, hpal, hpix, hmap, hstream⟩ := h
  obtain ⟨s', hs, sstream, sunit, spal, spix, smap⟩ := exec_writesStoreOnly i s
  obtain ⟨t', ht, tstream, tunit, tpal, tpix, tmap⟩ := exec_writesStoreOnly i t
  obtain ⟨hresp, rpal, rpix, rmap⟩ := exec_alike i ⟨fun _ => hpal, fun _ => hpix, fun _ => hmap⟩ s' t' hs ht
  refine ⟨s', t', hs, ht, ⟨?_, ?_, ?_, ?_, ?_⟩, hresp⟩
  · rw [sunit, tunit, hunit]
  · by_cases hf : family i = 2
    · exact rpal hf
    · rw [spal hf, tpal hf, hpal]
  · by_cases hf : family i = 3
    · exact rpix hf
    · rw [spix hf, tpix hf, hpix]
  · by_cases hf : family i = 5
    · exact rmap hf
    · exact sameTilemap_congr (smap hf).left (tmap hf).left hmap
  · rw [sstream, tstream, hstream]

theorem sameBlock_withStream {s t : State} (h : SameBlock s t) (rest : List PortEvent) :
    SameBlock { s with stream := rest } { t with stream := rest } := by
  obtain ⟨hunit, hpal, hpix, hmap, _⟩ := h
  exact ⟨hunit, hpal, hpix, hmap, rfl⟩

/-- Both outcomes are next states that hold the same block and show the same response, or both are the same refusal. -/
def Indistinguishable (o p : Host.Outcome State Fault Refusal) : Prop :=
  (∃ s t : State, o = .next s ∧ p = .next t ∧ SameBlock s t ∧ s.response = t.response) ∨
    (∃ r : Refusal, o = .refused r ∧ p = .refused r)

theorem runCommand_indistinguishable (c : Command) {s t : State} (h : SameBlock s t) :
    Indistinguishable (runCommand c s) (runCommand c t) := by
  unfold runCommand
  rw [h.left]
  cases c.wellFormed
  · exact .inr ⟨_, rfl, rfl⟩
  · cases decode t.hasTmap c with
    | ok i => exact .inl (exec_keeps_sameBlock i h)
    | error e => exact .inl ⟨_, _, raise_eq s _, raise_eq t _, h, rfl⟩

theorem runEvent_indistinguishable (e : PortEvent) {s t : State} (h : SameBlock s t) :
    Indistinguishable (runEvent e s) (runEvent e t) := by
  cases e with
  | command c => exact runCommand_indistinguishable c h
  | reset =>
    obtain ⟨hunit, _, _, _, hstream⟩ := h
    exact .inl ⟨_, _, rfl, rfl, ⟨hunit, rfl, rfl, by simp [SameTilemap], hstream⟩, rfl⟩

/-- Settles O59: states that hold the same block hold the same stream, whose first event they take alike. -/
theorem hiddenRegistersAreUnobservable : Obligations.HiddenRegistersAreUnobservable := by
  intro s t h
  have ⟨_, _, _, _, hstream⟩ := h
  cases hq : s.stream with
  | nil =>
    rw [step, step, runNext_nil hq, runNext_nil (hstream ▸ hq)]
    exact .inl ⟨s, t, rfl, rfl, h, fun hne => absurd rfl hne⟩
  | cons e rest =>
    rw [step, step, runNext_cons hq, runNext_cons (hstream ▸ hq)]
    obtain ⟨s', t', hs, ht, hst, hresp⟩ | hrefused := runEvent_indistinguishable e (sameBlock_withStream h rest)
    · exact .inl ⟨s', t', hs, ht, hst, fun _ => hresp⟩
    · exact .inr hrefused

end Sys2Proof.Proofs.Families

/-! PROOF. The completion codes of 60_exceptions.md R240 to R244: the code of each command said once, and from it when
each code appears. -/

namespace Sys2Proof.Proofs.CompletionCodes

open Sys2Proof Sys2Proof.Machine Sys2Proof.Statement Sys2Proof.Proofs.TilemapCommands

/-- The code a command completes with (60_exceptions.md R240 to R244). -/
def completionCode (i : Instr) (s : State) : Stat :=
  match i with
  | .palImport pin => if pin.length = 512 then .ok else .lenMismatch
  | .tileDec pin => if pin.length = 32 then .ok else .badCmd
  | .tmImport width height _ pin => if pin.length = dim width * dim height * 2 then .ok else .lenMismatch
  | .tmGet x y =>
    if s.tmValid then
      if x.toNat < s.tmW.toNat ∧ y.toNat < s.tmH.toNat then .ok else .absent
    else .noMap
  | .tmSet _ _ _ | .tmResize _ _ | .tmClear | .tmFill _ | .tmExport => if s.tmValid then .ok else .noMap
  | .colNew _ _ _ | .colPack _ | .colUnpack _ | .colTo8 _ | .colFrom8 _ _ _ => .ok
  | .palNew | .palGet _ _ | .palSet _ _ _ | .palExport => .ok
  | .tileNew | .tileGetpx _ _ | .tileSetpx _ _ _ | .tileEnc => .ok
  | .tmeNewA _ _ _ _ _ | .tmeNewB _ _ _ _ | .tmePackA _ | .tmePackB _ | .tmeUnpackA _ | .tmeUnpackB _ => .ok
  | .tmeSettileA _ _ | .tmeSettileB _ _ | .tmeSetpalA _ _ | .tmeSetpalB _ _ => .ok
  | .tmNew _ _ _ | .tmFree => .ok

/-! Every command completes with its code -/

/-- The outcome is a next state whose response has the given code. -/
def CompletesWith (code : Stat) (o : Host.Outcome State Fault Refusal) : Prop :=
  ∃ (t : State) (r : Response), o = .next t ∧ t.response = some r ∧ r.stat = code

theorem completesWith_complete (s : State) (code : Stat) (res : BitVec 64) (pout : List Byte) :
    CompletesWith code (complete s code res pout) := ⟨_, _, rfl, rfl, rfl⟩

theorem completesWith_ite {p q : Prop} [Decidable p] [Decidable q] (hpq : p ↔ q) {c d : Stat}
    {a b : Host.Outcome State Fault Refusal} (ha : CompletesWith c a) (hb : CompletesWith d b) :
    CompletesWith (if p then c else d) (if q then a else b) := by
  by_cases hp : p
  · rwa [if_pos hp, if_pos (hpq.mp hp)]
  · rwa [if_neg hp, if_neg (mt hpq.mpr hp)]

theorem completesWith_needMap {s : State} {code : Stat} {act : Host.Outcome State Fault Refusal}
    (hact : CompletesWith code act) : CompletesWith (if s.tmValid then code else .noMap) (needMap s act) :=
  completesWith_ite Iff.rfl hact (completesWith_complete ..)

theorem exec_completesWith (i : Instr) (s : State) : CompletesWith (completionCode i s) (exec i s) := by
  have ends {u code res pout} := completesWith_complete u code res pout
  cases i with
  | palImport pin => exact completesWith_ite Iff.rfl ends ends
  | tileGetpx x y =>
    simp only [exec, execTileGetpx]
    split <;> exact ends
  | tileSetpx x y c =>
    simp only [exec, execTileSetpx]
    split <;> exact ends
  | tileDec pin => exact completesWith_ite Iff.rfl ends ends
  | tmGet x y => exact completesWith_needMap (completesWith_ite (inGrid_iff s x y).symm ends ends)
  | tmSet x y w =>
    refine completesWith_needMap ?_
    split <;> exact ends
  | tmResize width height =>
    refine completesWith_needMap ?_
    split <;> exact ends
  | tmClear => exact completesWith_needMap ends
  | tmFill w => exact completesWith_needMap ends
  | tmExport => exact completesWith_needMap ends
  | tmImport width height rev pin =>
    exact completesWith_ite (by simp only [clampDim_toNat_eq_dim]) ends ends
  | _ => exact ends

/-! When each code appears -/

theorem completionCode_eq_lenMismatch_iff (i : Instr) (s : State) : completionCode i s = .lenMismatch ↔
    (∃ pin : List Byte, i = .palImport pin ∧ pin.length ≠ 512) ∨
      (∃ (width height : Half) (rev : Revision) (pin : List Byte), i = .tmImport width height rev pin ∧
        pin.length ≠ dim width * dim height * 2) := by
  cases i <;> simp [completionCode, ite_eq_iff]

theorem completionCode_eq_absent_iff (i : Instr) (s : State) : completionCode i s = .absent ↔
    s.tmValid = true ∧ ∃ x y : Half, i = .tmGet x y ∧ (s.tmW.toNat ≤ x.toNat ∨ s.tmH.toNat ≤ y.toNat) := by
  cases i with
  | tmGet x y => simp [completionCode, ite_eq_iff, imp_iff_not_or]
  | _ => simp [completionCode, ite_eq_iff]

theorem completionCode_eq_noMap_iff (i : Instr) (s : State) :
    completionCode i s = .noMap ↔ s.tmValid = false ∧ needsTilemap i = true := by
  cases i <;> simp [completionCode, ite_eq_iff, needsTilemap, opcodeOfInstr]

/-- A `TILE.DEC` that can be presented carries 32 bytes, so `BADCMD` is the port's alone (60_exceptions.md R243). -/
theorem completionCode_ne_badCmd {i : Instr} (hi : i.wellFormed = true) (s : State) :
    completionCode i s ≠ .badCmd := by
  cases i with
  | tileDec pin => simpa [completionCode, ite_eq_iff, Instr.wellFormed] using hi
  | _ => simp [completionCode, ite_eq_iff]

theorem stat_code_injective : Function.Injective Stat.code := by
  intro c d
  cases c <;> cases d <;> decide

/-- Settles O54: the response carries the command's code, and the codes' numbers are distinct. -/
theorem completionCodesOfEachCommand : Obligations.CompletionCodesOfEachCommand := by
  intro i s hi
  obtain ⟨t, r, hnext, hresp, hcode⟩ := exec_completesWith i s
  have code_iff (c : Stat) : r.stat.code = c.code ↔ completionCode i s = c := by
    rw [stat_code_injective.eq_iff, hcode]
  exact ⟨t, r, hnext, hresp, (code_iff .lenMismatch).trans (completionCode_eq_lenMismatch_iff i s),
    (code_iff .absent).trans (completionCode_eq_absent_iff i s),
    (code_iff .noMap).trans (completionCode_eq_noMap_iff i s),
    mt (code_iff .badCmd).mp (completionCode_ne_badCmd hi s), Responses.stat_code_le_four _⟩

end Sys2Proof.Proofs.CompletionCodes

/-! PROOF. The host's stream at the port (20_memory.md R61, 70_reset_and_hazards.md R270): which event a step takes,
that whatever can be presented completes, that a command that is not `OK` leaves nothing for the next one to see, and
what a reset restores. -/

namespace Sys2Proof.Proofs.HostStream

open Sys2Proof Sys2Proof.Machine Sys2Proof.Statement Sys2Proof.Proofs.ColorCommands

/-! Taking one event -/

theorem step_nil {s : State} (hq : s.stream = []) : step s = .next s := runNext_nil hq

theorem step_command {s : State} {c : Command} {rest : List PortEvent} (hq : s.stream = .command c :: rest) :
    step s = runCommand c { s with stream := rest } := runNext_cons hq

theorem step_reset {s : State} {rest : List PortEvent} (hq : s.stream = .reset :: rest) :
    step s = .next (resetBlock { s with stream := rest }) := runNext_cons hq

theorem runCommand_of_decode {c : Command} {s : State} {i : Instr} (hlen : c.plen.toNat = c.pin.length)
    (hdec : decode s.hasTmap c = .ok i) : runCommand c s = exec i s := by
  simp [runCommand, Responses.wellFormed_of_length hlen, hdec]

/-- Settles O42: the stream is no part of what the decoder sees (30_encoding.md R80, 60_exceptions.md R247). -/
theorem stepRunsDecodedInstruction : Obligations.StepRunsDecodedInstruction := by
  refine ⟨fun _ => step_nil, fun _ _ _ => step_command, ?_⟩
  intro s c rest i hq hlen hdec
  rw [step_command hq]
  exact runCommand_of_decode hlen hdec

/-! Everything presented completes -/

/-- A command whose payload has `PLEN` bytes completes and leaves the stream as it is: it runs what it decodes to, or
it is malformed and raises `BADCMD`. -/
theorem runCommand_completes {c : Command} (hc : c.wellFormed = true) (s : State) :
    ∃ t : State, runCommand c s = .next t ∧ t.stream = s.stream := by
  obtain ⟨_, i, _, hrun⟩ | ⟨_, _, _, hrun⟩ | ⟨hnot, _⟩ := runCommand_cases c s
  · obtain ⟨u, r, hexec, hstream, _⟩ := exec_answers i s
    exact ⟨_, hrun.trans hexec, hstream⟩
  · exact ⟨_, hrun.trans (raise_eq s _), rfl⟩
  · simp [hc] at hnot

/-- Settles O52: the one refusal needs a payload that has not `PLEN` bytes, which no presentable event carries
(00_scope.md R10). -/
theorem everyPresentedCommandCompletes : Obligations.EveryPresentedCommandCompletes := by
  intro s hs
  cases hq : s.stream with
  | nil => exact ⟨s, step_nil hq, hs⟩
  | cons e rest =>
    rw [StreamOk, hq, List.all_cons, Bool.and_eq_true] at hs
    obtain ⟨he, hrest⟩ := hs
    cases e with
    | command c =>
      obtain ⟨t, hrun, hstream⟩ := runCommand_completes he { s with stream := rest }
      exact ⟨t, (step_command hq).trans hrun, by rwa [StreamOk, hstream]⟩
    | reset => exact ⟨_, step_reset hq, hrest⟩

/-! A command that is not `OK` -/

theorem runCommand_ignores_response (c : Command) (s : State) (r : Option Response) :
    runCommand c { s with response := r } = runCommand c s := by
  simp only [runCommand, exec_ignores_response]
  rfl

/-- A command whose response is not `OK` leaves the state as it was under that response (60_exceptions.md R248). -/
theorem runCommand_eq_of_not_ok {c : Command} {s t : State} {r : Response} (hrun : runCommand c s = .next t)
    (hresp : t.response = some r) (hr : r.stat ≠ .ok) : t = { s with response := some r } := by
  cases hc : c.wellFormed
  · simp [runCommand, hc] at hrun
  · have hways := Responses.runCommand_succeedsOrRaises (s := s) hc
    generalize runCommand c s = out at hrun hways
    cases hways with
    | succeeds u res pout _ =>
      cases hrun
      cases hresp
      exact absurd rfl hr
    | raises code =>
      cases hrun
      cases hresp
      rfl

/-- Settles O55: the next command meets the state it would have met, under a response it does not read
(60_exceptions.md R249). -/
theorem failedCommandLeavesNoTrace : Obligations.FailedCommandLeavesNoTrace := by
  intro s t c d rest r hq hstep hresp hr
  rw [step_command hq] at hstep
  obtain rfl := runCommand_eq_of_not_ok hstep hresp hr
  exact runCommand_ignores_response d { s with stream := rest } (some r)

/-! Reset -/

/-- Settles O50: the reset event is the next state of its step, with the named fields (70_reset_and_hazards.md R271). -/
theorem resetEventRestoresBlock : Obligations.ResetEventRestoresBlock := by
  intro s rest hq
  exact ⟨_, step_reset hq, rfl, rfl, rfl, rfl, rfl⟩

/-- Settles O48: both stores of the reset state hold one value throughout, and there is no tilemap. -/
theorem resetStateIsBlackZeroNoMap : Obligations.ResetStateIsBlackZeroNoMap := by
  refine ⟨fun i => ?_, fun y x => ?_, rfl, TilemapInvariant.tilemapOk_of_none rfl⟩
  · exact Vector.getElem_replicate i.isLt
  · simp only [State.reset, Fin.getElem_fin, Vector.getElem_replicate]

end Sys2Proof.Proofs.HostStream

/-! PROOF. The codecs' laws (40_color.md R126, 43_tilemap_entry.md R194, R195): a word is the number its fields make up,
so unpacking it, under either revision, is division of that number. -/

namespace Sys2Proof.Proofs.CodecRoundTrips

open Sys2Proof Sys2Proof.Machine Sys2Proof.Statement Sys2Proof.Proofs.ColorCommands
  Sys2Proof.Proofs.EntryCommands Sys2Proof.Proofs.TilemapCommands

/-! Colours -/

/-- Unpacking drops bit 15 and packing never sets it (40_color.md R122, R123). -/
theorem packColor_unpackColor (w : Half) : packColor (unpackColor w) = w &&& 0x7FFF := by
  apply BitVec.eq_of_toNat_eq
  rw [packColor_toNat, unpackColor_eq, and_mask_toNat w 15 _ rfl]
  simp only [BitVec.toNat_ofNat]
  omega

/-- The low three bits that `exp8` adds are the ones `FROM8` drops (40_color.md R124, R125). -/
theorem reduce8_expand8 (v : BitVec 5) : reduce8 (expand8 v) = v := by
  apply BitVec.eq_of_toNat_eq
  rw [reduce8_toNat, expand8_toNat]
  omega

theorem exec_colPack (c : Color) (s : State) :
    exec (.colPack c) s = .next { s with response := okRes ((packColor c).setWidth 64) } := by
  simp only [exec, execColPack, succeed_eq_okRes, resWord_eq_setWidth]

theorem exec_colUnpack (w : Half) (s : State) : exec (.colUnpack w) s = .next { s with
    response := okRes (lanes (unpackColor w).r.toNat (unpackColor w).g.toNat (unpackColor w).b.toNat) } := by
  simp only [exec, execColUnpack, succeed_eq_okRes, resColor_eq_lanes]

theorem exec_colTo8 (c : Color) (s : State) : exec (.colTo8 c) s = .next { s with
    response := okRes (lanes (expand8 c.r).toNat (expand8 c.g).toNat (expand8 c.b).toNat) } := by
  simp only [exec, execColTo8, succeed_eq_okRes, resChannels_eq_lanes]

theorem exec_colFrom8 (r8 g8 b8 : Byte) (s : State) : exec (.colFrom8 r8 g8 b8) s = .next { s with
    response := okRes (lanes (reduce8 r8).toNat (reduce8 g8).toNat (reduce8 b8).toNat) } := by
  simp only [exec, execColFrom8, succeed_eq_okRes, resColor_eq_lanes]

/-- Settles O6: the witnesses are the packed word, the unpacked colour and the expanded channels (40_color.md R126). -/
theorem colourCodecRoundTrips : Obligations.ColourCodecRoundTrips := by
  intro s
  refine ⟨fun c => ⟨packColor c, exec_colPack c s, ?_⟩, fun w => ⟨unpackColor w, exec_colUnpack w s, ?_⟩,
    fun c => ⟨expand8 c.r, expand8 c.g, expand8 c.b, exec_colTo8 c s, ?_⟩⟩
  · rw [exec_colUnpack, unpackColor_packColor]
  · rw [exec_colPack, packColor_unpackColor]
  · simp only [exec_colFrom8, reduce8_expand8]

/-! Entries -/

/-- A bit is known by its number. -/
theorem getLsbD_eq_of_toNat {n : Nat} {v : BitVec n} {i : Nat} {b : Bool} (h : v.toNat / 2 ^ i % 2 = b.toNat) :
    v.getLsbD i = b := by
  rw [BitVec.getLsbD, Nat.testBit_eq_decide_div_mod_eq, h]
  cases b <;> rfl

theorem toNat_getLsbD {n : Nat} (v : BitVec n) (i : Nat) : (v.getLsbD i).toNat = v.toNat / 2 ^ i % 2 :=
  Nat.toNat_testBit ..

theorem exec_tmePackA (e : EntryA) (s : State) :
    exec (.tmePackA e) s = .next { s with response := okRes ((packA e).setWidth 64) } := by
  simp only [exec, execTmePackA, succeed_eq_okRes, resWord_eq_setWidth]

theorem exec_tmePackB (e : EntryB) (s : State) :
    exec (.tmePackB e) s = .next { s with response := okRes ((packB e).setWidth 64) } := by
  simp only [exec, execTmePackB, succeed_eq_okRes, resWord_eq_setWidth]

theorem exec_tmeUnpackA (w : Half) (s : State) : exec (.tmeUnpackA w) s = .next { s with
    response := okRes (recA (unpackA w).tile.toNat (unpackA w).pal.toNat (unpackA w).h (unpackA w).v
      (unpackA w).prio) } := by
  simp only [exec, execTmeUnpackA, succeed_eq_okRes, resEntryA_eq_recA]

theorem exec_tmeUnpackB (w : Half) (s : State) : exec (.tmeUnpackB w) s = .next { s with
    response := okRes (recB (unpackB w).tile.toNat (unpackB w).pal.toNat (unpackB w).h (unpackB w).v) } := by
  simp only [exec, execTmeUnpackB, succeed_eq_okRes, resEntryB_eq_recB]

/-- What `TME.UNPACK.A` answers, from the number of each field of the word (43_tilemap_entry.md R188). -/
theorem exec_tmeUnpackA_of_fields {w : Half} {tile pal : Nat} {h v p : Bool} (htile : w.toNat % 2 ^ 10 = tile)
    (hpal : w.toNat / 2 ^ 10 % 2 ^ 3 = pal) (hh : w.toNat / 2 ^ 13 % 2 = h.toNat)
    (hv : w.toNat / 2 ^ 14 % 2 = v.toNat) (hp : w.toNat / 2 ^ 15 % 2 = p.toNat) (s : State) :
    exec (.tmeUnpackA w) s = .next { s with response := okRes (recA tile pal h v p) } := by
  simp only [exec_tmeUnpackA, unpackA_eq, BitVec.toNat_ofNat, htile, hpal, getLsbD_eq_of_toNat hh,
    getLsbD_eq_of_toNat hv, getLsbD_eq_of_toNat hp]

/-- What `TME.UNPACK.B` answers, from the number of each field of the word (43_tilemap_entry.md R189). -/
theorem exec_tmeUnpackB_of_fields {w : Half} {tile pal : Nat} {h v : Bool} (htile : w.toNat % 2 ^ 10 = tile)
    (hpal : w.toNat / 2 ^ 12 % 2 ^ 4 = pal) (hh : w.toNat / 2 ^ 10 % 2 = h.toNat)
    (hv : w.toNat / 2 ^ 11 % 2 = v.toNat) (s : State) :
    exec (.tmeUnpackB w) s = .next { s with response := okRes (recB tile pal h v) } := by
  simp only [exec_tmeUnpackB, unpackB_eq, BitVec.toNat_ofNat, htile, hpal, getLsbD_eq_of_toNat hh,
    getLsbD_eq_of_toNat hv]

/-- A flag is one bit of the word's number. -/
theorem flag_lt (f : Bool) : f.toNat < 2 := Nat.lt_succ_of_le (Bool.toNat_le f)

/-- Settles O29: each field of the packed word is where its own revision unpacks it (43_tilemap_entry.md R194). -/
theorem entryCodecsRoundTrip : Obligations.EntryCodecsRoundTrip := by
  intro s
  refine ⟨fun e => ⟨packA e, exec_tmePackA e s, ?_⟩, fun e => ⟨packB e, exec_tmePackB e s, ?_⟩,
    fun w => ⟨unpackA w, exec_tmeUnpackA w s, ?_⟩, fun w => ⟨unpackB w, exec_tmeUnpackB w s, ?_⟩⟩
  · have hh := flag_lt e.h; have hv := flag_lt e.v; have hp := flag_lt e.prio
    apply exec_tmeUnpackA_of_fields <;> rw [packA_toNat] <;> omega
  · have hh := flag_lt e.h; have hv := flag_lt e.v
    apply exec_tmeUnpackB_of_fields <;> rw [packB_toNat] <;> omega
  · rw [exec_tmePackA, packA_unpackA]
  · rw [exec_tmePackB, packB_unpackB]

/-- Settles O30: both words keep the tile in their low ten bits; the other revision cuts the six bits above in other
places (43_tilemap_entry.md R182, R195). -/
theorem crossingRevisionsKeepsOnlyTile : Obligations.CrossingRevisionsKeepsOnlyTile := by
  intro s
  refine ⟨fun e => ⟨packA e, exec_tmePackA e s, ?_⟩, fun e => ⟨packB e, exec_tmePackB e s, ?_⟩⟩
  · have hh := flag_lt e.h; have hv := flag_lt e.v; have hp := flag_lt e.prio
    have h0 := toNat_getLsbD e.pal 0; have h1 := toNat_getLsbD e.pal 1
    apply exec_tmeUnpackB_of_fields <;> rw [packA_toNat] <;> omega
  · have hh := flag_lt e.h; have hv := flag_lt e.v
    have h1 := toNat_getLsbD e.pal 1; have h2 := toNat_getLsbD e.pal 2; have h3 := toNat_getLsbD e.pal 3
    apply exec_tmeUnpackA_of_fields <;> rw [packB_toNat] <;> omega

end Sys2Proof.Proofs.CodecRoundTrips

/-! PROOF. The palette's laws (41_palette.md R149, R150): what one command stored, the next one reads, item by item
of the blob and cell by cell. -/

namespace Sys2Proof.Proofs.PaletteRoundTrips

open Sys2Proof Sys2Proof.Machine Sys2Proof.Statement Sys2Proof.Proofs.ColorCommands
  Sys2Proof.Proofs.PaletteCommands Sys2Proof.Proofs.CodecRoundTrips

/-! Items of a blob -/

/-- An item whose two bytes stand in a blob is read back from it (20_memory.md R52). -/
theorem memRead16_of_getElem? {bytes : List Byte} {a : Nat} {w : Half}
    (hbytes : bytes[a]? = some (BitVec.ofNat 8 (w.toNat % 256)) ∧
      bytes[a + 1]? = some (BitVec.ofNat 8 (w.toNat / 256))) : memRead16 bytes a = w := by
  obtain ⟨hlow, hhigh⟩ := hbytes
  apply BitVec.eq_of_toNat_eq
  rw [memRead16_toNat, List.getD_eq_getElem?_getD, List.getD_eq_getElem?_getD, hlow, hhigh]
  simp only [Option.getD_some, BitVec.toNat_ofNat]
  omega

/-! The blob -/

theorem exec_palExport (s : State) : exec .palExport s = .next { s with response := okBytes (exportPal s) } :=
  succeedWith_eq_okBytes s _

theorem exec_palImport_of_length {pin : List Byte} (hlen : pin.length = 512) (s : State) :
    exec (.palImport pin) s = .next { s with pal := importedPal pin, response := okRes 0 } := by
  simp only [exec, execPalImport, if_pos hlen, succeed_eq_okRes]

/-- Every colour survives the blob (41_palette.md R149). -/
theorem importedPal_exportPal (s : State) : importedPal (exportPal s) = s.pal := by
  apply Vector.ext
  intro i hi
  have hcell := importedPal_getElem (exportPal s) ⟨i, hi⟩
  rwa [memRead16_of_getElem? (exportPal_getElem? s ⟨i, hi⟩), unpackColor_packColor] at hcell

/-- The word of an imported colour is the item it came from without bit 15 (41_palette.md R148, 90_conflicts.md C2). -/
theorem packColor_importedPal_toNat (pin : List Byte) (i : Fin 256) :
    (packColor (importedPal pin)[i]).toNat = itemNumber pin (2 * i.val) % 2 ^ 15 := by
  rw [importedPal_getElem, packColor_unpackColor, and_mask_toNat _ 15 _ rfl, memRead16_toNat_eq_itemNumber]

/-- Bit 15 of an item is bit 7 of its second byte, so that bit is what the palette drops. -/
theorem exportPal_getElem?_of_importedPal {t : State} {pin : List Byte} (ht : t.pal = importedPal pin)
    (i : Fin 256) : (exportPal t)[2 * i.val]? = some (pin.getD (2 * i.val) 0) ∧
      (exportPal t)[2 * i.val + 1]? = some (pin.getD (2 * i.val + 1) 0 &&& 0x7F) := by
  obtain ⟨hlow, hhigh⟩ := exportPal_getElem? t i
  rw [hlow, hhigh, ht, packColor_importedPal_toNat, itemNumber]
  have hlt := (pin.getD (2 * i.val) 0).isLt
  constructor <;> congr 1 <;> apply BitVec.eq_of_toNat_eq
  · rw [BitVec.toNat_ofNat]
    omega
  · rw [BitVec.toNat_ofNat, and_mask_toNat _ 7 _ rfl]
    omega

theorem exportPal_getD_of_importedPal {t : State} {pin : List Byte} (ht : t.pal = importedPal pin) {k : Nat}
    (hk : k < 512) : (exportPal t).getD k 0 = if k % 2 = 0 then pin.getD k 0 else pin.getD k 0 &&& 0x7F := by
  obtain ⟨i, rfl | rfl⟩ := Nat.even_or_odd' k
  · obtain ⟨hlow, _⟩ := exportPal_getElem?_of_importedPal ht ⟨i, by omega⟩
    rw [if_pos (by omega), List.getD_eq_getElem?_getD, hlow, Option.getD_some]
  · obtain ⟨_, hhigh⟩ := exportPal_getElem?_of_importedPal ht ⟨i, by omega⟩
    rw [if_neg (by omega), List.getD_eq_getElem?_getD, hhigh, Option.getD_some]

/-- Settles O12: an item of an exported blob is the word of its colour, and the word of an imported item is that item
without bit 15 (41_palette.md R149). -/
theorem paletteBlobRoundTrips : Obligations.PaletteBlobRoundTrips := by
  constructor
  · intro s
    refine ⟨exportPal s, exec_palExport s, ?_⟩
    rw [exec_palImport_of_length (exportPal_length s), importedPal_exportPal]
  · intro s pin hlen
    exact ⟨_, _, exec_palImport_of_length hlen s, exec_palExport _, exportPal_length _,
      fun _ hk => exportPal_getD_of_importedPal (by rfl) hk⟩

/-! One cell -/

theorem exec_palGet (sp ci : Byte) (s : State) : exec (.palGet sp ci) s = .next { s with
    response := okRes (lanes (readPal s (palIndex sp ci)).r.toNat (readPal s (palIndex sp ci)).g.toNat
      (readPal s (palIndex sp ci)).b.toNat) } := by
  simp only [exec, execPalGet, succeed_eq_okRes, resColor_eq_lanes]

theorem exec_palSet (sp ci : Byte) (c : Color) (s : State) :
    exec (.palSet sp ci c) s = .next { writePal s (palIndex sp ci) c with response := okRes 0 } :=
  succeed_eq_okRes _ 0

/-- Two pairs of indices wrap to one cell exactly when both wrap alike (41_palette.md R143). -/
theorem palIndex_eq_iff (sp ci sp' ci' : Byte) : palIndex sp' ci' = palIndex sp ci ↔
    sp'.toNat % 16 = sp.toNat % 16 ∧ ci'.toNat % 16 = ci.toNat % 16 := by
  rw [Fin.ext_iff, palIndex_val, palIndex_val]
  omega

theorem readPal_writePal (s : State) (i j : Fin 256) (c : Color) :
    readPal (writePal s i c) j = if j = i then c else readPal s j := getElem_set_fin s.pal i j c

/-- Settles O13: the cell read is the one written exactly when both indices wrap alike (41_palette.md R150). -/
theorem palReadAfterWrite : Obligations.PalReadAfterWrite := by
  intro sp ci sp' ci' c s t hset
  rw [exec_palSet] at hset
  cases hset
  refine ⟨_, exec_palGet .., ?_⟩
  have hread : readPal { writePal s (palIndex sp ci) c with response := okRes 0 } (palIndex sp' ci') =
      if palIndex sp' ci' = palIndex sp ci then c else readPal s (palIndex sp' ci') := readPal_writePal ..
  simp only [hread, palIndex_eq_iff]
  split
  · rfl
  · exact exec_palGet ..

end Sys2Proof.Proofs.PaletteRoundTrips

/-! PROOF. The tile's laws (42_tile.md R168, R170, R171): the planar codec moves single bits, so both directions are
compared bit by bit, and a pixel is read back where it was written. -/

namespace Sys2Proof.Proofs.TileRoundTrips

open Sys2Proof Sys2Proof.Machine Sys2Proof.Statement Sys2Proof.Proofs.RowDecoding Sys2Proof.Proofs.ColorCommands
  Sys2Proof.Proofs.PaletteCommands Sys2Proof.Proofs.TileCommands

/-! The planar codec -/

theorem planarTile_getElem (pin : List Byte) (x y : Fin 8) : (planarTile pin)[y][x] = planarPixel pin x y := by
  simp only [planarTile, Fin.getElem_fin, Vector.getElem_ofFn]

/-- A bit of a gathered tile is a bit of the blob (42_tile.md R168, R169). -/
theorem planarTile_getLsbD (pin : List Byte) (p : Fin 4) (y x : Fin 8) :
    (planarTile pin)[y][x].getLsbD p.val = (pin.getD (8 * p.val + y.val) 0).getLsbD (7 - x.val) := by
  rw [planarTile_getElem, planarPixel_getLsbD, memRead8]

theorem exec_tileEnc (s : State) : exec .tileEnc s = .next { s with response := okBytes (planarBlob s) } :=
  succeedWith_eq_okBytes s _

theorem exec_tileDec_of_length {pin : List Byte} (hlen : pin.length = 32) (s : State) :
    exec (.tileDec pin) s = .next { s with pix := planarTile pin, response := okRes 0 } := by
  simp only [exec, execTileDec, if_pos hlen, succeed_eq_okRes]

/-- Settles O18: the length is checked before any byte is read, and the gathered tile has each bit where the rule says
(42_tile.md R168). -/
theorem tileDecGathersPlanes : Obligations.TileDecGathersPlanes := by
  constructor
  · exact decodesTo_of_row .tileDec rfl
      (fun plen hlen => by simp [Opcode.acceptsPlen, Opcode.payloadIn, hlen]) fun _ _ => rfl
  · intro pin s
    constructor
    · intro hlen
      simp only [exec, execTileDec, if_neg hlen, raise_eq_notOk]
    · intro hlen
      exact ⟨planarTile pin, planarTile_getLsbD pin, exec_tileDec_of_length hlen s⟩

/-- Gathering what was scattered: every bit of a pixel comes back to its place. -/
theorem planarTile_planarBlob (s : State) : planarTile (planarBlob s) = s.pix := by
  apply Vector.ext
  intro y hy
  apply Vector.ext
  intro x hx
  apply BitVec.eq_of_getLsbD_eq
  intro p hp
  have hbit := planarTile_getLsbD (planarBlob s) ⟨p, hp⟩ ⟨y, hy⟩ ⟨x, hx⟩
  rwa [planarBlob_getD, planeByte_getLsbD, readPixel] at hbit

/-- A byte is known by its bits read from the top, as the columns of a row are (42_tile.md R167). -/
theorem byte_eq_of_columns {b c : Byte} (h : ∀ x : Fin 8, b.getLsbD (7 - x.val) = c.getLsbD (7 - x.val)) :
    b = c := by
  apply BitVec.eq_of_getLsbD_eq
  intro i hi
  have hcol := h ⟨7 - i, by omega⟩
  rwa [Nat.sub_sub_self (by omega : i ≤ 7)] at hcol

/-- Scattering what was gathered: 32 bytes hold the bits of a tile and no other. -/
theorem planarBlob_of_planarTile {t : State} {pin : List Byte} (ht : t.pix = planarTile pin)
    (hlen : pin.length = 32) : planarBlob t = pin := by
  apply List.ext_getElem (by rw [planarBlob_length, hlen])
  intro k hk hk'
  have hplace : 8 * (k / 8) + k % 8 = k := Nat.div_add_mod k 8
  have hbyte := planarBlob_getD t ⟨k / 8, by omega⟩ ⟨k % 8, by omega⟩
  rw [hplace, List.getD_eq_getElem _ _ hk] at hbyte
  rw [hbyte]
  apply byte_eq_of_columns
  intro x
  rw [planeByte_getLsbD t ⟨k / 8, by omega⟩, readPixel, ht, planarTile_getLsbD, hplace,
    List.getD_eq_getElem _ _ hk']

/-- Settles O19: each codec puts back every bit the other one moved (42_tile.md R170). -/
theorem tileBlobRoundTrips : Obligations.TileBlobRoundTrips := by
  constructor
  · intro s
    refine ⟨planarBlob s, exec_tileEnc s, ?_⟩
    rw [exec_tileDec_of_length (planarBlob_length s), planarTile_planarBlob]
  · intro s pin hlen
    refine ⟨_, exec_tileDec_of_length hlen s, ?_⟩
    rw [exec_tileEnc, planarBlob_of_planarTile (by rfl) hlen]

/-! One pixel -/

/-- For a place inside the tile, the condition of R171 says that the write is not ignored and goes to that place. -/
theorem sameTarget_iff {x y c x' y' : Byte} (hx : x'.toNat < 8) (hy : y'.toNat < 8) :
    (x.toNat < 8 ∧ y.toNat < 8 ∧ c.toNat ≤ 15 ∧ x' = x ∧ y' = y) ↔
      c.toNat ≤ 15 ∧ y'.toNat = y.toNat ∧ x'.toNat = x.toNat := by
  simp only [← BitVec.toNat_inj]
  omega

/-- Settles O20: inside the tile the pixel read is the written one exactly when the places agree; outside it both reads
give 0 (42_tile.md R171). -/
theorem tileReadAfterWrite : Obligations.TileReadAfterWrite := by
  intro x y c x' y' s t hset
  obtain ⟨_, hwrites⟩ := tileSetpxWritesOrIgnores
  obtain ⟨pix, hpix, hexec⟩ := hwrites x y c s
  rw [hexec] at hset
  cases hset
  by_cases hin : x'.toNat < 8 ∧ y'.toNat < 8
  · obtain ⟨hx, hy⟩ := hin
    refine ⟨_, exec_tileGetpx_of_inRange (i := ⟨_, hx⟩) (j := ⟨_, hy⟩) _ rfl rfl, ?_⟩
    dsimp only
    rw [hpix]
    simp only [sameTarget_iff hx hy]
    split
    next hsame =>
      obtain ⟨hc, _, _⟩ := hsame
      rw [BitVec.toNat_ofNat, Nat.mod_eq_of_lt (by omega)]
    next => exact exec_tileGetpx_of_inRange s rfl rfl
  · refine ⟨_, exec_tileGetpx_of_outOfRange _ (by omega), ?_⟩
    rw [if_neg]
    · exact exec_tileGetpx_of_outOfRange s (by omega)
    · rintro ⟨hx, hy, _, rfl, rfl⟩
      exact hin ⟨hx, hy⟩

end Sys2Proof.Proofs.TileRoundTrips

/-! PROOF. The tilemap's laws (44_tilemap.md R221, R222): a cell is its word, so blobs lose no bit, and the
invariant of 10_state.md R29 keeps each place of the grid at a cell of its own. -/

namespace Sys2Proof.Proofs.TilemapRoundTrips

open Sys2Proof Sys2Proof.Machine Sys2Proof.Statement Sys2Proof.Proofs.ColorCommands
  Sys2Proof.Proofs.PaletteCommands Sys2Proof.Proofs.TilemapCommands Sys2Proof.Proofs.PaletteRoundTrips

/-! The blob -/

theorem exec_tmExport_of_valid {s : State} (hv : s.tmValid = true) :
    exec .tmExport s = .next { s with response := okBytes (exportCells s) } := by
  simp only [exec, execTmExport, needMap_of_valid hv, succeedWith_eq_okBytes]

theorem exec_tmImport_of_length {width height : Half} {pin : List Byte} (rev : Revision) (s : State)
    (hlen : pin.length = dim width * dim height * 2) :
    exec (.tmImport width height rev pin) s = .next { s with
      tmValid := true, tmRev := rev, tmW := BitVec.ofNat 9 (dim width), tmH := BitVec.ofNat 9 (dim height),
      cells := importedCells rev (dim width * dim height) pin, response := okRes 0 } := by
  simp only [exec, execTmImport, clampDim_toNat_eq_dim, if_pos hlen, succeed_installMap]

/-- A dimension in range is not changed by the clamp. -/
theorem dim_eq_of_inRange {v : Half} {d : BitVec 9} (hv : v.toNat = d.toNat) (hd : 1 ≤ d.toNat ∧ d.toNat ≤ 256) :
    dim v = d.toNat := by
  unfold dim
  omega

theorem ofNat_dim_toNat (v : Half) : (BitVec.ofNat 9 (dim v)).toNat = dim v := by
  rw [← clampDim_eq_dim, clampDim_toNat_eq_dim]

/-- Every cell of the grid survives the blob (44_tilemap.md R221). -/
theorem importedCells_exportCells {s : State} (rev : Revision)
    (hlen : s.cells.length = s.tmW.toNat * s.tmH.toNat) :
    importedCells rev (s.tmW.toNat * s.tmH.toNat) (exportCells s) = s.cells := by
  apply List.ext_getElem?
  intro i
  by_cases hi : i < s.tmW.toNat * s.tmH.toNat
  · rw [importedCells_getElem? rev _ _ i hi, memRead16_of_getElem? (exportCells_getElem? s i hi), cellWord,
      List.getD_eq_getElem?_getD, List.getElem?_eq_getElem (hlen ▸ hi), Option.getD_some]
  · rw [List.getElem?_eq_none (by simpa using hi), List.getElem?_eq_none (by omega)]

theorem cellWord_of_getElem? {cells : List Half} {i : Nat} {w : Half} (h : cells[i]? = some w) :
    cellWord cells i = w := by
  rw [cellWord, List.getD_eq_getElem?_getD, h, Option.getD_some]

/-- The two bytes of an imported cell are the two it was read from (44_tilemap.md R218, R220). -/
theorem exportCells_getElem?_of_importedCells {t : State} {rev : Revision} {pin : List Byte}
    (ht : t.cells = importedCells rev (t.tmW.toNat * t.tmH.toNat) pin) {i : Nat}
    (hi : i < t.tmW.toNat * t.tmH.toNat) : (exportCells t)[2 * i]? = some (pin.getD (2 * i) 0) ∧
      (exportCells t)[2 * i + 1]? = some (pin.getD (2 * i + 1) 0) := by
  have hword : cellWord t.cells i = memRead16 pin (2 * i) :=
    cellWord_of_getElem? (ht ▸ importedCells_getElem? rev _ pin i hi)
  obtain ⟨hlow, hhigh⟩ := exportCells_getElem? t i hi
  rw [hlow, hhigh, hword, memRead16_toNat]
  have hlt := (pin.getD (2 * i) 0).isLt
  constructor <;> congr 1 <;> apply BitVec.eq_of_toNat_eq <;> rw [BitVec.toNat_ofNat] <;> omega

/-- Every byte of a blob of the grid's size survives its cells (44_tilemap.md R221). -/
theorem exportCells_of_importedCells {t : State} {rev : Revision} {pin : List Byte}
    (hlen : pin.length = t.tmW.toNat * t.tmH.toNat * 2)
    (ht : t.cells = importedCells rev (t.tmW.toNat * t.tmH.toNat) pin) : exportCells t = pin := by
  apply List.ext_getElem (by rw [exportCells_length, hlen])
  intro k hk hk'
  rw [List.getElem_eq_iff, ← List.getD_eq_getElem pin 0 hk']
  obtain ⟨i, rfl | rfl⟩ := Nat.even_or_odd' k
  · obtain ⟨hlow, _⟩ := exportCells_getElem?_of_importedCells ht (by omega : i < _)
    exact hlow
  · obtain ⟨_, hhigh⟩ := exportCells_getElem?_of_importedCells ht (by omega : i < _)
    exact hhigh

/-- Settles O39: the dimensions are in range by the invariant, so the clamp keeps them, and no bit of a cell is lost
either way (44_tilemap.md R221). -/
theorem tilemapBlobRoundTrips : Obligations.TilemapBlobRoundTrips := by
  constructor
  · intro s width height hs hv hwidth hheight
    obtain ⟨hw, hh, hlen⟩ := hs hv
    have hdimW := dim_eq_of_inRange hwidth hw
    have hdimH := dim_eq_of_inRange hheight hh
    refine ⟨exportCells s, exec_tmExport_of_valid hv, ?_⟩
    rw [exec_tmImport_of_length _ _ (by rw [exportCells_length, hdimW, hdimH]), hdimW, hdimH,
      importedCells_exportCells _ hlen]
    simp only [BitVec.ofNat_toNat, BitVec.setWidth_eq, ← hv]
  · intro s width height rev pin hlen
    refine ⟨_, exec_tmImport_of_length rev s hlen, ?_⟩
    rw [exec_tmExport_of_valid (by rfl), exportCells_of_importedCells (rev := rev) (pin := pin)]
    · simpa only [ofNat_dim_toNat] using hlen
    · simp only [ofNat_dim_toNat]

/-! Reading a cell -/

/-- Two places inside the grid are one cell only when they are one place (10_state.md R28). -/
theorem rowMajor_inj {w x y x' y' : Nat} (hx : x < w) (hx' : x' < w) (h : y' * w + x' = y * w + x) :
    x' = x ∧ y' = y := by
  have hcol : x' = x := by simpa [Nat.mod_eq_of_lt hx, Nat.mod_eq_of_lt hx'] using congrArg (· % w) h
  subst hcol
  exact ⟨rfl, Nat.eq_of_mul_eq_mul_right (by omega) (Nat.add_right_cancel h)⟩

theorem exec_tmGet_of_getElem? {s : State} {x y w : Half} (hv : s.tmValid = true) (hx : x.toNat < s.tmW.toNat)
    (hy : y.toNat < s.tmH.toNat) (hcell : s.cells[y.toNat * s.tmW.toNat + x.toNat]? = some w) :
    exec (.tmGet x y) s = .next { s with response := okRes (w.setWidth 64) } := by
  rw [exec_tmGet_of_inGrid hv hx hy, cellWord_of_getElem? hcell]

/-- Settles O40: the written cell is in the list, by the invariant, and no other place of the grid is that cell
(44_tilemap.md R222). -/
theorem tmReadAfterWrite : Obligations.TmReadAfterWrite := by
  intro x y w x' y' s t hs hv hx hy hset
  rw [exec_tmSet_of_inGrid w hv ⟨hx, hy⟩] at hset
  cases hset
  by_cases hin : x'.toNat < s.tmW.toNat ∧ y'.toNat < s.tmH.toNat
  · obtain ⟨hx', hy'⟩ := hin
    obtain ⟨_, _, hlen⟩ := hs hv
    refine ⟨_, exec_tmGet_of_inGrid (by exact hv) (by exact hx') (by exact hy'), ?_⟩
    dsimp only
    split
    next hsame =>
      obtain ⟨rfl, rfl⟩ := hsame
      rw [cellWord_of_getElem? (List.getElem?_set_self (hlen ▸ rowMajor_lt hx hy))]
    next hother =>
      have hne : y.toNat * s.tmW.toNat + x.toNat ≠ y'.toNat * s.tmW.toNat + x'.toNat := fun h => hother <| by
        simpa only [BitVec.toNat_inj] using rowMajor_inj hx hx' h.symm
      rw [cellWord, List.getD_eq_getElem?_getD, List.getElem?_set_ne hne, ← List.getD_eq_getElem?_getD, ← cellWord]
      exact exec_tmGet_of_inGrid hv hx' hy'
  · refine ⟨_, exec_tmGet_of_not_inGrid (by exact hv) (by exact hin), ?_⟩
    rw [if_neg]
    · exact exec_tmGet_of_not_inGrid hv hin
    · rintro ⟨rfl, rfl⟩
      exact hin ⟨hx, hy⟩

/-- Reading a resized grid by its own registers gives the cell that was carried over, or the default one. -/
theorem exec_tmGet_of_resized {s t : State} {nw nh : Nat} (hv : t.tmValid = true) (hw : t.tmW.toNat = nw)
    (hh : t.tmH.toNat = nh) (hcells : t.cells = resizedCells s nw nh) {x y : Half} (hx : x.toNat < nw)
    (hy : y.toNat < nh) : exec (.tmGet x y) t = .next { t with
      response := okRes ((if x.toNat < s.tmW.toNat ∧ y.toNat < s.tmH.toNat then
        cellWord s.cells (y.toNat * s.tmW.toNat + x.toNat) else 0).setWidth 64) } := by
  subst hw hh
  exact exec_tmGet_of_getElem? hv hx hy (hcells ▸ resizedCells_getElem? s _ _ _ _ hx hy)

/-- Settles O41: a resize to the size there is leaves the grid, any other one leaves the resized cells, which the new
registers address (44_tilemap.md R222, decision D10). -/
theorem tmReadAfterResize : Obligations.TmReadAfterResize := by
  intro width height x y s t hs hv hresize
  by_cases hsame : dim width = s.tmW.toNat ∧ dim height = s.tmH.toNat
  · rw [exec_tmResize_of_sameSize hv hsame] at hresize
    cases hresize
    refine ⟨fun _ _ hx hy => ?_, fun hx hy hout => by omega, fun hout => ?_⟩
    · exact ⟨_, cells_getElem?_of_inGrid hs hv hx hy, exec_tmGet_of_inGrid hv hx hy⟩
    · exact exec_tmGet_of_not_inGrid hv (by dsimp only; omega)
  · rw [exec_tmResize_of_newSize hv hsame] at hresize
    obtain ⟨htv, htw, hth, hcells⟩ : t.tmValid = true ∧ t.tmW.toNat = dim width ∧ t.tmH.toNat = dim height ∧
        t.cells = resizedCells s (dim width) (dim height) := by
      cases hresize
      exact ⟨hv, ofNat_dim_toNat width, ofNat_dim_toNat height, rfl⟩
    refine ⟨fun hx hy hxOld hyOld => ?_, fun hx hy hout => ?_, fun hout => ?_⟩
    · refine ⟨_, cells_getElem?_of_inGrid hs hv hxOld hyOld, ?_⟩
      rw [exec_tmGet_of_resized htv htw hth hcells hx hy, if_pos ⟨hxOld, hyOld⟩]
    · rw [exec_tmGet_of_resized htv htw hth hcells hx hy, if_neg (by omega)]
      rfl
    · exact exec_tmGet_of_not_inGrid htv (by omega)

end Sys2Proof.Proofs.TilemapRoundTrips

/-! PROOF. The answers right after reset (70_reset_and_hazards.md R272): black is the word 0 and every pixel is 0, so
both blobs of the reset state are zero throughout. -/

namespace Sys2Proof.Proofs.FirstResponses

open Sys2Proof Sys2Proof.Machine Sys2Proof.Statement Sys2Proof.Proofs.PaletteRoundTrips
  Sys2Proof.Proofs.TileCommands Sys2Proof.Proofs.TileRoundTrips Sys2Proof.Proofs.TilemapCommands

/-! The stores at reset -/

theorem readPal_reset (i : Fin 256) : readPal State.reset i = { r := 0, g := 0, b := 0 } :=
  Vector.getElem_replicate i.isLt

theorem readPixel_reset (x y : Fin 8) : readPixel State.reset x y = 0 := by
  simp only [readPixel, State.reset, Fin.getElem_fin, Vector.getElem_replicate]

theorem exportPal_reset : exportPal State.reset = List.replicate 512 0 := by
  rw [List.eq_replicate_iff]
  refine ⟨exportPal_length _, fun b hb => ?_⟩
  obtain ⟨i, _, hmem⟩ := List.mem_flatMap.mp hb
  rw [readPal_reset] at hmem
  exact List.eq_of_mem_replicate (n := 2) hmem

theorem planeByte_reset (p : Fin 4) (y : Fin 8) : planeByte State.reset p.val y = 0 := by
  apply byte_eq_of_columns
  intro x
  rw [planeByte_getLsbD, readPixel_reset]
  simp

theorem planarBlob_reset : planarBlob State.reset = List.replicate 32 0 := by
  rw [List.eq_replicate_iff]
  refine ⟨planarBlob_length _, fun b hb => ?_⟩
  obtain ⟨p, hp, hrow⟩ := List.mem_flatMap.mp hb
  obtain ⟨y, _, rfl⟩ := List.mem_map.mp hrow
  exact planeByte_reset ⟨p, List.mem_range.mp hp⟩ y

/-! The answers -/

theorem exec_tileGetpx_reset (x y : Byte) :
    exec (.tileGetpx x y) State.reset = .next { State.reset with response := okRes 0 } := by
  by_cases hin : x.toNat < 8 ∧ y.toNat < 8
  · obtain ⟨hx, hy⟩ := hin
    rw [exec_tileGetpx_of_inRange (i := ⟨_, hx⟩) (j := ⟨_, hy⟩) _ rfl rfl, ← readPixel, readPixel_reset]
    rfl
  · exact exec_tileGetpx_of_outOfRange _ (by omega)

/-- Settles O49: the reads meet one value throughout, and the commands that need a tilemap meet none
(70_reset_and_hazards.md R272). -/
theorem firstResponsesAfterReset : Obligations.FirstResponsesAfterReset := by
  refine ⟨fun sp ci => ?_, ?_, exec_tileGetpx_reset, ?_, ?_, fun i hi => exec_of_noMap hi rfl⟩
  · rw [exec_palGet, readPal_reset]
    rfl
  · rw [exec_palExport, exportPal_reset]
  · rw [exec_tileEnc, planarBlob_reset]
  · obtain ⟨_, hfree, _⟩ := tmFreeDestroysTilemap
    exact hfree State.reset rfl

end Sys2Proof.Proofs.FirstResponses
